-- ==== Sys2Proof/Word.lean ====
section
/-! DEFINITION. The widths of the machine's values (00_scope.md R6, 10_state.md R10, R14, R15). -/

namespace Sys2Proof

/-- One byte: a general register, a memory cell, a timer (R10, R12, R17, R18). -/
abbrev Byte := BitVec 8

/-- Sixteen bits: an opcode, `pc`, `I`, a stack entry (R50, R14, R15, R16). -/
abbrev Word := BitVec 16

/-- The embedded 12-bit address `nnn` (R52). -/
abbrev Addr12 := BitVec 12

/-- The number of a general register, V0 to VF (R10). -/
abbrev Reg := Fin 16

/-- VF, the register that doubles as the flag (R11). -/
abbrev VF : Reg := 15

end Sys2Proof
end

