-- ==== Sys2Proof/Syntax.lean ====
section
/-! DEFINITION. The instructions: one constructor per row of spec/opcode_table.json (30_encoding.md R55). -/

namespace Sys2Proof

/-- An instruction as the decoder hands it to the engine: operands are the fields of R52, a register
number already a `Reg`, the height of DRW a count from 0 to 15 (R54). -/
inductive Instr where
  /-- CLS, 00E0 (R120). -/
  | cls
  /-- RET, 00EE (R74). -/
  | ret
  /-- SYS nnn, 0nnn other than 00E0 and 00EE (R73). -/
  | sys (nnn : Addr12)
  /-- JP nnn, 1nnn (R75). -/
  | jp (nnn : Addr12)
  /-- CALL nnn, 2nnn (R76). -/
  | call (nnn : Addr12)
  /-- SE Vx, kk, 3xkk (R77). -/
  | seImm (x : Reg) (kk : Byte)
  /-- SNE Vx, kk, 4xkk (R78). -/
  | sneImm (x : Reg) (kk : Byte)
  /-- SE Vx, Vy, 5xy0 (R79). -/
  | seReg (x y : Reg)
  /-- LD Vx, kk, 6xkk (R92). -/
  | ldImm (x : Reg) (kk : Byte)
  /-- ADD Vx, kk, 7xkk (R93). -/
  | addImm (x : Reg) (kk : Byte)
  /-- LD Vx, Vy, 8xy0 (R94). -/
  | ldReg (x y : Reg)
  /-- OR Vx, Vy, 8xy1 (R95). -/
  | orReg (x y : Reg)
  /-- AND Vx, Vy, 8xy2 (R96). -/
  | andReg (x y : Reg)
  /-- XOR Vx, Vy, 8xy3 (R97). -/
  | xorReg (x y : Reg)
  /-- ADD Vx, Vy, 8xy4 (R98). -/
  | addReg (x y : Reg)
  /-- SUB Vx, Vy, 8xy5 (R99). -/
  | subReg (x y : Reg)
  /-- SHR Vx, Vy, 8xy6 (R100). -/
  | shr (x y : Reg)
  /-- SUBN Vx, Vy, 8xy7 (R101). -/
  | subnReg (x y : Reg)
  /-- SHL Vx, Vy, 8xyE (R102). -/
  | shl (x y : Reg)
  /-- SNE Vx, Vy, 9xy0 (R80). -/
  | sneReg (x y : Reg)
  /-- LD I, nnn, Annn (R110). -/
  | ldI (nnn : Addr12)
  /-- JP V0, nnn, Bnnn (R81). -/
  | jpV0 (nnn : Addr12)
  /-- RND Vx, kk, Cxkk (R104). -/
  | rnd (x : Reg) (kk : Byte)
  /-- DRW Vx, Vy, n, Dxyn (R121). -/
  | drw (x y : Reg) (n : Fin 16)
  /-- SKP Vx, Ex9E (R130). -/
  | skp (x : Reg)
  /-- SKNP Vx, ExA1 (R131). -/
  | sknp (x : Reg)
  /-- LD Vx, DT, Fx07 (R133). -/
  | ldVxDT (x : Reg)
  /-- LD Vx, K, Fx0A (R132). -/
  | ldVxK (x : Reg)
  /-- LD DT, Vx, Fx15 (R134). -/
  | ldDTVx (x : Reg)
  /-- LD ST, Vx, Fx18 (R135). -/
  | ldSTVx (x : Reg)
  /-- ADD I, Vx, Fx1E (R111). -/
  | addI (x : Reg)
  /-- LD F, Vx, Fx29 (R112). -/
  | ldF (x : Reg)
  /-- LD B, Vx, Fx33 (R113). -/
  | ldB (x : Reg)
  /-- LD [I], Vx, Fx55, the register dump (R114). -/
  | dumpRegs (x : Reg)
  /-- LD Vx, [I], Fx65, the register load (R115). -/
  | loadRegs (x : Reg)
  /-- Row 36: an undefined word, carried whole so that no bit of it is lost (R57, R82). -/
  | nop (word : Word)
  deriving DecidableEq, Repr

end Sys2Proof
end

