-- ==== Sys2Proof/Decode.lean ====
section
/-! DEFINITION. The decoder, total on any bytes, and after it the encoder (30_encoding.md R50 to R58). -/

namespace Sys2Proof

/-! ### Byte order and the operand fields -/

/-- The opcode formed by the byte at the lower address and the one after it, high byte first (R33). -/
def opcodeOf (hi lo : Byte) : Word := BitVec.ofNat 16 (hi.toNat * 256 + lo.toNat)

/-- The byte of an opcode that stands at the lower address (R50). -/
def hiByte (op : Word) : Byte := op.extractLsb' 8 8

/-- The byte of an opcode that stands at the higher address (R50). -/
def loByte (op : Word) : Byte := op.extractLsb' 0 8

/-- The first nibble, which selects the family (R51). -/
def familyOf (op : Word) : Fin 16 := (op.extractLsb' 12 4).toFin

/-- Field `x`, bits 11:8 (R52). -/
def xOf (op : Word) : Reg := (op.extractLsb' 8 4).toFin

/-- Field `y`, bits 7:4 (R52). -/
def yOf (op : Word) : Reg := (op.extractLsb' 4 4).toFin

/-- Field `n`, bits 3:0 (R52). -/
def nOf (op : Word) : Fin 16 := (op.extractLsb' 0 4).toFin

/-- Field `kk`, bits 7:0 (R52). -/
def kkOf (op : Word) : Byte := op.extractLsb' 0 8

/-- Field `nnn`, bits 11:0 (R52). -/
def nnnOf (op : Word) : Addr12 := op.extractLsb' 0 12

/-! ### The decoder -/

/-- The decision tree of R56. Every one of the 65536 words selects exactly one row; CLS and RET are
tested before SYS, and a word that no row of 1 to 35 matches is row 36 (R57). -/
def decodeWord (op : Word) : Instr :=
  match (familyOf op).val with
  | 0x0 => if op = 0x00E0#16 then .cls else if op = 0x00EE#16 then .ret else .sys (nnnOf op)
  | 0x1 => .jp (nnnOf op)
  | 0x2 => .call (nnnOf op)
  | 0x3 => .seImm (xOf op) (kkOf op)
  | 0x4 => .sneImm (xOf op) (kkOf op)
  | 0x5 => if nOf op = 0 then .seReg (xOf op) (yOf op) else .nop op
  | 0x6 => .ldImm (xOf op) (kkOf op)
  | 0x7 => .addImm (xOf op) (kkOf op)
  | 0x8 =>
    match (nOf op).val with
    | 0x0 => .ldReg (xOf op) (yOf op)
    | 0x1 => .orReg (xOf op) (yOf op)
    | 0x2 => .andReg (xOf op) (yOf op)
    | 0x3 => .xorReg (xOf op) (yOf op)
    | 0x4 => .addReg (xOf op) (yOf op)
    | 0x5 => .subReg (xOf op) (yOf op)
    | 0x6 => .shr (xOf op) (yOf op)
    | 0x7 => .subnReg (xOf op) (yOf op)
    | 0xE => .shl (xOf op) (yOf op)
    | _ => .nop op
  | 0x9 => if nOf op = 0 then .sneReg (xOf op) (yOf op) else .nop op
  | 0xA => .ldI (nnnOf op)
  | 0xB => .jpV0 (nnnOf op)
  | 0xC => .rnd (xOf op) (kkOf op)
  | 0xD => .drw (xOf op) (yOf op) (nOf op)
  | 0xE =>
    match (kkOf op).toNat with
    | 0x9E => .skp (xOf op)
    | 0xA1 => .sknp (xOf op)
    | _ => .nop op
  | _ =>  -- the first nibble is 0xF
    match (kkOf op).toNat with
    | 0x07 => .ldVxDT (xOf op)
    | 0x0A => .ldVxK (xOf op)
    | 0x15 => .ldDTVx (xOf op)
    | 0x18 => .ldSTVx (xOf op)
    | 0x1E => .addI (xOf op)
    | 0x29 => .ldF (xOf op)
    | 0x33 => .ldB (xOf op)
    | 0x55 => .dumpRegs (xOf op)
    | 0x65 => .loadRegs (xOf op)
    | _ => .nop op

/-- Why a run of bytes is no instruction. There is one reason: no encoding is illegal (R57), but an
instruction is exactly two bytes (R50). -/
inductive DecodeReject where
  /-- Fewer than two bytes were given. -/
  | truncated
  deriving DecidableEq, Repr

/-- Reads one instruction off the front of a list of bytes and answers the rest (R50). -/
def decodeBytes : List Byte → Except DecodeReject (Instr × List Byte)
  | hi :: lo :: rest => .ok (decodeWord (opcodeOf hi lo), rest)
  | _ => .error .truncated

/-- The instruction the decoder reads from a row of spec/opcode_table.json whose bits are `w`: one
16-bit word, laid out high byte first (R33, R50). -/
def decodeTableWord (nbits w : Nat) : Option Instr :=
  let op := BitVec.ofNat 16 (w % 2 ^ nbits)
  match decodeBytes [hiByte op, loByte op] with
  | .ok (i, _) => some i
  | .error _ => none

/-! ### The encoder -/

/-- Format A: a family and a 12-bit address (R53). -/
def formatA (family : Nat) (nnn : Addr12) : Word :=
  BitVec.ofNat 16 (family * 0x1000 + nnn.toNat)

/-- Format XK: a family, a register and an 8-bit immediate; format XS is the same with the immediate
a fixed selector (R53). -/
def formatXK (family : Nat) (x : Reg) (kk : Byte) : Word :=
  BitVec.ofNat 16 (family * 0x1000 + x.val * 0x100 + kk.toNat)

/-- Format XYN: a family, two registers and a nibble; format XY is the same with the nibble a fixed
selector (R53). -/
def formatXYN (family : Nat) (x y : Reg) (n : Fin 16) : Word :=
  BitVec.ofNat 16 (family * 0x1000 + x.val * 0x100 + y.val * 0x10 + n.val)

/-- The word of an instruction, from the patterns of R55. -/
def encode : Instr → Word
  | .cls => 0x00E0#16
  | .ret => 0x00EE#16
  | .sys nnn => formatA 0x0 nnn
  | .jp nnn => formatA 0x1 nnn
  | .call nnn => formatA 0x2 nnn
  | .seImm x kk => formatXK 0x3 x kk
  | .sneImm x kk => formatXK 0x4 x kk
  | .seReg x y => formatXYN 0x5 x y 0x0
  | .ldImm x kk => formatXK 0x6 x kk
  | .addImm x kk => formatXK 0x7 x kk
  | .ldReg x y => formatXYN 0x8 x y 0x0
  | .orReg x y => formatXYN 0x8 x y 0x1
  | .andReg x y => formatXYN 0x8 x y 0x2
  | .xorReg x y => formatXYN 0x8 x y 0x3
  | .addReg x y => formatXYN 0x8 x y 0x4
  | .subReg x y => formatXYN 0x8 x y 0x5
  | .shr x y => formatXYN 0x8 x y 0x6
  | .subnReg x y => formatXYN 0x8 x y 0x7
  | .shl x y => formatXYN 0x8 x y 0xE
  | .sneReg x y => formatXYN 0x9 x y 0x0
  | .ldI nnn => formatA 0xA nnn
  | .jpV0 nnn => formatA 0xB nnn
  | .rnd x kk => formatXK 0xC x kk
  | .drw x y n => formatXYN 0xD x y n
  | .skp x => formatXK 0xE x 0x9E#8
  | .sknp x => formatXK 0xE x 0xA1#8
  | .ldVxDT x => formatXK 0xF x 0x07#8
  | .ldVxK x => formatXK 0xF x 0x0A#8
  | .ldDTVx x => formatXK 0xF x 0x15#8
  | .ldSTVx x => formatXK 0xF x 0x18#8
  | .addI x => formatXK 0xF x 0x1E#8
  | .ldF x => formatXK 0xF x 0x29#8
  | .ldB x => formatXK 0xF x 0x33#8
  | .dumpRegs x => formatXK 0xF x 0x55#8
  | .loadRegs x => formatXK 0xF x 0x65#8
  | .nop word => word

/-! ### The opcode map as the spec prints it -/

/-- The columns `match` and `mask` of R55, rows 1 to 36 in their order. -/
def opcodeMap : List (Word × Word) :=
  [(0x00E0, 0xFFFF), (0x00EE, 0xFFFF), (0x0000, 0xF000), (0x1000, 0xF000), (0x2000, 0xF000),
   (0x3000, 0xF000), (0x4000, 0xF000), (0x5000, 0xF00F), (0x6000, 0xF000), (0x7000, 0xF000)] ++
  [(0x8000, 0xF00F), (0x8001, 0xF00F), (0x8002, 0xF00F), (0x8003, 0xF00F), (0x8004, 0xF00F),
   (0x8005, 0xF00F), (0x8006, 0xF00F), (0x8007, 0xF00F), (0x800E, 0xF00F), (0x9000, 0xF00F)] ++
  [(0xA000, 0xF000), (0xB000, 0xF000), (0xC000, 0xF000), (0xD000, 0xF000), (0xE09E, 0xF0FF),
   (0xE0A1, 0xF0FF), (0xF007, 0xF0FF), (0xF00A, 0xF0FF), (0xF015, 0xF0FF), (0xF018, 0xF0FF)] ++
  [(0xF01E, 0xF0FF), (0xF029, 0xF0FF), (0xF033, 0xF0FF), (0xF055, 0xF0FF), (0xF065, 0xF0FF),
   (0x0000, 0x0000)]

/-- A word selects a row when `op & mask = match` (R55). -/
def rowMatches (op : Word) (row : Word × Word) : Bool := op &&& row.2 == row.1

/-- The number, counted from 1 as in R55, of the first row of the opcode map that a word selects. -/
def firstMatch (op : Word) : Nat := opcodeMap.findIdx (rowMatches op) + 1

/-- The number of the row of R55 that an instruction stands for. -/
def Instr.row : Instr → Nat
  | .cls => 1
  | .ret => 2
  | .sys _ => 3
  | .jp _ => 4
  | .call _ => 5
  | .seImm _ _ => 6
  | .sneImm _ _ => 7
  | .seReg _ _ => 8
  | .ldImm _ _ => 9
  | .addImm _ _ => 10
  | .ldReg _ _ => 11
  | .orReg _ _ => 12
  | .andReg _ _ => 13
  | .xorReg _ _ => 14
  | .addReg _ _ => 15
  | .subReg _ _ => 16
  | .shr _ _ => 17
  | .subnReg _ _ => 18
  | .shl _ _ => 19
  | .sneReg _ _ => 20
  | .ldI _ => 21
  | .jpV0 _ => 22
  | .rnd _ _ => 23
  | .drw _ _ _ => 24
  | .skp _ => 25
  | .sknp _ => 26
  | .ldVxDT _ => 27
  | .ldVxK _ => 28
  | .ldDTVx _ => 29
  | .ldSTVx _ => 30
  | .addI _ => 31
  | .ldF _ => 32
  | .ldB _ => 33
  | .dumpRegs _ => 34
  | .loadRegs _ => 35
  | .nop _ => 36

end Sys2Proof
end

