-- ==== Sys2Proof/Config.lean ====
section
/-! DEFINITION. What an implementation fixes (00_scope.md R3 to R5, 10_state.md R12: the parameters
FB_WIDTH, FB_HEIGHT, SHIFT_SRC, FONT_ROM, MEM_FILL) and the free values the spec leaves to the
machine's surroundings (R7, R21). The default values stand in Machine/Params.lean. -/

namespace Sys2Proof

/-- SHIFT_SRC: which register SHR and SHL shift (R4). -/
inductive ShiftSrc where
  | vx
  | vy
  deriving DecidableEq, Repr

/-- The parameters a model takes as configuration (00_scope.md section 4). They stand in State as a
field that no step writes, so a claim about every state holds for every choice of them (log entry 1). -/
structure Config where
  /-- FB_WIDTH, the number of pixel columns (R3). -/
  fbWidth : Nat
  /-- FB_HEIGHT, the number of pixel rows (R3). -/
  fbHeight : Nat
  /-- SHIFT_SRC (R4). -/
  shiftSrc : ShiftSrc
  /-- FONT_ROM, exactly 80 bytes (R5, R13). -/
  fontRom : Vector Byte 80
  /-- MEM_FILL, what reset leaves outside font and program (R12). -/
  memFill : Byte
  deriving DecidableEq, Repr

/-- FB_WIDTH and FB_HEIGHT are positive integers (R3). -/
abbrev Config.wf (c : Config) : Prop := 0 < c.fbWidth ∧ 0 < c.fbHeight

/-- FREE VALUE: how many ticks fall before the step that takes the `n`-th free input (R182: any
number, zero included). Log entry 3. -/
opaque Config.freeTicks : Nat → Nat

/-- FREE VALUE: the sixteen key lines at the step that takes the `n`-th free input (R145: any 16-bit
value at any step). Log entry 3. -/
opaque Config.freeKeys : Nat → Word

/-- FREE VALUE: the random draw of the step that takes the `n`-th free input (R7, R147). Log entry 3. -/
opaque Config.freeRnd : Nat → Byte

/-- FREE VALUE: what a failed load leaves in the program area, as the bytes from 0x200 on (R169: the
program area is unspecified). Log entry 5. -/
opaque Config.failedLoadImage : Nat → List Byte

end Sys2Proof
end

