-- ==== Sys2Proof/Machine/Params.lean ====
section
/-! DEFINITION. The fixed sizes and addresses of 00_scope.md R6, the values this spec gives the
parameters (R3 to R5, R12), and what a byte of memory holds after reset (10_state.md R12). -/

namespace Sys2Proof.Machine

/-- `memory` is 4096 bytes, addresses 0x000 to 0xFFF (R12, R32). -/
def memSize : Nat := 0x1000

/-- Where the program is loaded and where execution begins (R6, R191). -/
def loadAddress : Nat := 0x200

/-- The longest ROM, 0xE00 bytes (R6, R150). -/
def maxRomLength : Nat := 0xE00

/-- FONT_BASE (R5). -/
def fontBase : Nat := 0x050

/-- The highest value of `pc` a fetch succeeds from (R71). -/
def lastFetch : Nat := 0xFFE

/-- Glyphs 0 to 3 of FONT_ROM (R13). -/
def fontGlyphs0 : Vector Byte 20 :=
  #v[0xF0, 0x90, 0x90, 0x90, 0xF0, 0x20, 0x60, 0x20, 0x20, 0x70,
     0xF0, 0x10, 0xF0, 0x80, 0xF0, 0xF0, 0x10, 0xF0, 0x10, 0xF0]

/-- Glyphs 4 to 7 of FONT_ROM (R13). -/
def fontGlyphs4 : Vector Byte 20 :=
  #v[0x90, 0x90, 0xF0, 0x10, 0x10, 0xF0, 0x80, 0xF0, 0x10, 0xF0,
     0xF0, 0x80, 0xF0, 0x90, 0xF0, 0xF0, 0x10, 0x20, 0x40, 0x40]

/-- Glyphs 8 to B of FONT_ROM (R13). -/
def fontGlyphs8 : Vector Byte 20 :=
  #v[0xF0, 0x90, 0xF0, 0x90, 0xF0, 0xF0, 0x90, 0xF0, 0x10, 0xF0,
     0xF0, 0x90, 0xF0, 0x90, 0x90, 0xE0, 0x90, 0xE0, 0x90, 0xE0]

/-- Glyphs C to F of FONT_ROM (R13). -/
def fontGlyphsC : Vector Byte 20 :=
  #v[0xF0, 0x80, 0x80, 0x80, 0xF0, 0xE0, 0x90, 0x90, 0x90, 0xE0,
     0xF0, 0x80, 0xF0, 0x80, 0xF0, 0xF0, 0x80, 0xF0, 0x80, 0x80]

/-- FONT_ROM as the table of R13 gives it (log entry 2). -/
def fontTable : Vector Byte 80 := fontGlyphs0 ++ fontGlyphs4 ++ fontGlyphs8 ++ fontGlyphsC

/-- The parameters at the values this spec uses (00_scope.md section 4, log entry 2). -/
def defaultConfig : Config :=
  { fbWidth := 64
    fbHeight := 32
    shiftSrc := .vx
    fontRom := fontTable
    memFill := 0x00 }

/-- What address `a` holds after reset where no program byte is loaded, and so what an address that
memory does not list reads as: the font at 0x050 to 0x09F, MEM_FILL elsewhere (R12, R31). -/
def resetByte (c : Config) (a : Nat) : Byte :=
  if h : fontBase ≤ a ∧ a - fontBase < 80 then c.fontRom[a - fontBase]'h.2 else c.memFill

end Sys2Proof.Machine
end

