-- ==== Sys2Proof/Machine/Frame.lean ====
section
/-! DEFINITION. The framebuffer and the sprite unit's operations on it (10_state.md R19, 20_memory.md
R43, 43_display.md R121 to R123). -/

namespace Sys2Proof.Machine

/-- The grid of pixels: rows from the top, in each row the columns from the left (R19). -/
abbrev Frame := List (List Bool)

/-- Pixel `fb[r][c]` (R19). -/
def Frame.get (f : Frame) (r c : Nat) : Bool := (f.getD r []).getD c false

/-- The grid with every pixel unset (R19, R120). -/
def Frame.blank (w h : Nat) : Frame := List.replicate h (List.replicate w false)

/-- The grid has `h` rows of `w` pixels each (R19). -/
abbrev Frame.wf (w h : Nat) (f : Frame) : Prop := f.length = h ∧ ∀ row ∈ f, row.length = w

/-- `fb[r][c] <- fb[r][c] ^ 1` (R121). -/
def Frame.toggle (f : Frame) (r c : Nat) : Frame := f.modify r fun row => row.modify c (! ·)

/-- Toggles the listed pixels one after the other, and says whether any of them was set when its turn
came: the body of the loops of R121. -/
def Frame.toggleAll (f : Frame) (hit : Bool) : List (Nat × Nat) → Frame × Bool
  | [] => (f, hit)
  | (r, c) :: ps => Frame.toggleAll (f.toggle r c) (hit || f.get r c) ps

/-- The pixels, as (row, column), that the set bits of one sprite row land on: `col` 0 is bit 7, and
the sums are formed on unbounded integers and then reduced (R121, R122). -/
def spriteRowPixels (w h x0 y0 row : Nat) (b : Byte) : List (Nat × Nat) :=
  (List.range 8).filterMap fun col =>
    if b.getLsbD (7 - col) then some ((y0 + row) % h, (x0 + col) % w) else none

/-- The pixels that the set bits of a sprite land on, row by row from row number `row` on (R121). -/
def spritePixels (w h x0 y0 row : Nat) : List Byte → List (Nat × Nat)
  | [] => []
  | b :: bs => spriteRowPixels w h x0 y0 row b ++ spritePixels w h x0 y0 (row + 1) bs

/-- Draws a sprite with its origin at column `x0` and row `y0`: the new grid, and whether a pixel went
from set to unset (R121, R123). -/
def drawSprite (w h x0 y0 : Nat) (sprite : List Byte) (f : Frame) : Frame × Bool :=
  f.toggleAll false (spritePixels w h x0 y0 0 sprite)

end Sys2Proof.Machine
end

