-- ==== Sys2Proof/Machine/Memory.lean ====
section
/-! DEFINITION. `memory` (10_state.md R12, 20_memory.md R30 to R37): a list of (address, byte) pairs in
one canonical form, addresses strictly rising and no entry equal to what an unlisted address reads
as. Which addresses may be accessed is decided before memory is touched (Ops, `dataRangeOK`). -/

namespace Sys2Proof.Machine

/-- The bytes that differ from what reset leaves, in rising order of address. -/
abbrev Memory := List Host.Cell

/-- The canonical form from address `lo` on, inside the address space of R32. -/
def Memory.wfFrom (c : Config) (lo : Nat) : Memory → Bool
  | [] => true
  | (a, b) :: m => decide (lo ≤ a) && decide (a < memSize) && b != resetByte c a && Memory.wfFrom c (a + 1) m

/-- The canonical form: strictly rising addresses inside 0x000 to 0xFFF, no entry that an unlisted
address would read as. -/
def Memory.wf (c : Config) (m : Memory) : Bool := Memory.wfFrom c 0 m

/-- One byte of memory: the last value written to it, or its reset value (R36). -/
def Memory.read (c : Config) (a : Nat) : Memory → Byte
  | [] => resetByte c a
  | (a', b) :: m => if a' = a then b else Memory.read c a m

/-- The entry that makes address `a` read as `b`: none when an unlisted address already does. -/
def Memory.cell (c : Config) (a : Nat) (b : Byte) : Memory :=
  if b = resetByte c a then [] else [(a, b)]

/-- Writes one byte, keeping the canonical form. -/
def Memory.write (c : Config) (a : Nat) (b : Byte) : Memory → Memory
  | [] => Memory.cell c a b
  | (a', b') :: m =>
    if a < a' then Memory.cell c a b ++ (a', b') :: m
    else if a = a' then Memory.cell c a b ++ m
    else (a', b') :: Memory.write c a b m

/-- Writes consecutive bytes at rising addresses (R34). -/
def Memory.writeBytes (c : Config) (base : Nat) : List Byte → Memory → Memory
  | [], m => m
  | b :: bs, m => Memory.writeBytes c (base + 1) bs (Memory.write c base b m)

/-- `len` consecutive bytes at rising addresses (R34). -/
def Memory.readBytes (c : Config) (base : Nat) (m : Memory) : Nat → List Byte
  | 0 => []
  | len + 1 => Memory.read c base m :: Memory.readBytes c (base + 1) m len

/-- Memory that differs from what reset leaves only by an image of bytes from address `base` on (R150). -/
def Memory.image (c : Config) (base : Nat) : List Byte → Memory
  | [] => []
  | b :: bs => Memory.cell c base b ++ Memory.image c (base + 1) bs

end Sys2Proof.Machine
end

