-- ==== Sys2Proof/Machine/State.lean ====
section
/-! DEFINITION. The state of the machine as plain data (10_state.md R10 to R22), the inputs of its steps
(50_interfaces.md R140 to R150), why a step could stop, and the state after reset (R190). -/

namespace Sys2Proof.Machine

/-- The fault latch (R20). -/
structure FaultLatch where
  /-- `fault.valid` -/
  valid : Bool
  /-- `fault.cause`, a code of R161 -/
  cause : BitVec 3
  /-- `fault.addr`, the address of the failing instruction -/
  addr : Word
  /-- `fault.opcode`, the failing opcode, or 0 when the fetch itself failed -/
  opcode : Word
  deriving DecidableEq, Repr

/-- The fatal conditions, the only exceptions of the machine (R160, R161). Taking one is a next state
(`State.raiseFatal`), never a `Fault`: the spec describes its entry (R166). -/
inductive FatalCause where
  | fetchOob
  | stackOverflow
  | stackUnderflow
  | dataOob
  | romTooLarge
  deriving DecidableEq, Repr

/-- What the surroundings may do between two steps (R140, R143, R151). -/
inductive HostEvent where
  /-- This many events on the `tick` port (R148). -/
  | ticks (count : Nat)
  /-- `rst` goes up with this ROM presented (R141, R150, R192). -/
  | assertReset (rom : List Byte)
  /-- `rst` goes down (R141, R151). -/
  | releaseReset
  deriving DecidableEq, Repr

/-- The inputs of one step request. -/
structure StepInput where
  /-- What happened since the step before, oldest first (R143, R182). -/
  before : List HostEvent
  /-- The key lines as this step samples them: bit `k` is 1 when key `k` is held (R145). -/
  keys : Word
  /-- The random draw of this step (R147). -/
  rnd : Byte
  deriving DecidableEq, Repr

/-- The state. `V` to `fault` is the whole state of the block (R22). The other fields are the model's
own: the parameters (`cfg`), the output pulse (`fbPush`), the level of the reset port (`rst`) and the
inputs of this step and of later ones (`now`, `later`, `seq`). -/
structure State where
  /-- The parameters of 00_scope.md section 4; no step writes them (log entry 1). -/
  cfg : Config
  /-- V0 to VF (R10). -/
  V : Vector Byte 16
  /-- The program counter (R14). -/
  pc : Word
  /-- The index register (R15). -/
  I : Word
  /-- The return stack (R16). -/
  stack : Vector Word 16
  /-- The stack pointer: how many return addresses are held (R16). -/
  sp : BitVec 4
  /-- The delay timer (R17). -/
  DT : Byte
  /-- The sound timer (R18). -/
  ST : Byte
  /-- `memory` (R12). -/
  mem : Memory
  /-- The framebuffer (R19). -/
  fb : Frame
  /-- The fault latch (R20). -/
  fault : FaultLatch
  /-- The `fb_push` pulse: set exactly when the last step invoked the Display Sink, whose snapshot is
  then `fb` (R141, R144). -/
  fbPush : Bool
  /-- The level of the port `rst`: while it is up the block is held in reset (R141, log entry 9). -/
  rst : Bool
  /-- The inputs of the coming step (R141). -/
  now : StepInput
  /-- The inputs of the steps after it, as far as they are given (log entry 3). -/
  later : List StepInput
  /-- How many free inputs have been taken (log entry 3). -/
  seq : Nat
  deriving DecidableEq, Repr

/-- Why a step could stop with a fault: there is no reason. Every abnormal event of R160 has an effect
the spec describes, the fatal conditions included, so each is a next state. -/
inductive Fault where
  deriving DecidableEq, Repr

/-- Why an instruction could have no meaning. -/
inductive Refusal where
  /-- Raised by an arm of `exec` whose instruction has no meaning yet; no arm does. Safe. -/
  | notModelled (mnemonic : String)
  deriving DecidableEq, Repr

/-- The fault latch with no fault (R20). -/
def FaultLatch.none : FaultLatch := { valid := false, cause := 0, addr := 0, opcode := 0 }

/-- The machine right after reset (R190, R22) with no ROM byte loaded; a program is loaded by a reset
with its ROM (`State.resetWith`), which builds on these values. The inputs have no reset value (R191):
those of the first step are named here (log entry 4). -/
def State.reset : State :=
  { cfg := defaultConfig
    V := Vector.replicate 16 0x00
    pc := BitVec.ofNat 16 loadAddress
    I := 0x0000
    stack := Vector.replicate 16 0x0000
    sp := 0
    DT := 0x00
    ST := 0x00
    mem := []
    fb := Frame.blank defaultConfig.fbWidth defaultConfig.fbHeight
    fault := FaultLatch.none
    fbPush := false
    rst := false
    now := { before := [], keys := 0x0000, rnd := 0x00 }
    later := []
    seq := 0 }

end Sys2Proof.Machine
end

