-- ==== Sys2Proof/Machine/Ops.lean ====
section
/-! DEFINITION. The named operations over registers, memory, stack and framebuffer, and taking a fatal
condition, the one exception entry of the machine (60_exceptions.md R166). There is no return from one:
only reset clears the latch (R167). -/

namespace Sys2Proof.Machine

/-- What every meaning answers. -/
abbrev Result := Host.Outcome State Fault Refusal

/-! ### Registers -/

/-- `V[x]` (R10). -/
def State.reg (s : State) (x : Reg) : Byte := s.V[x.val]

/-- `V[x] <- v` (R10). -/
def State.setReg (s : State) (x : Reg) (v : Byte) : State := { s with V := s.V.set x.val v }

/-- `V[0..x] <- vs`, the registers above `x` unchanged (R115). -/
def State.setRegsTo (s : State) (x : Reg) (vs : List Byte) : State :=
  { s with V := Vector.ofFn fun i : Fin 16 => if i ≤ x then vs.getD i.val 0 else s.reg i }

/-- `V[0..x]` in order (R114). -/
def State.regsTo (s : State) (x : Reg) : List Byte := s.V.toList.take (x.val + 1)

/-- `pc <- target` (R14). -/
def State.setPc (s : State) (target : Word) : State := { s with pc := target }

/-- `I <- v` (R15). -/
def State.setI (s : State) (v : Word) : State := { s with I := v }

/-- `DT <- v` (R17). -/
def State.setDT (s : State) (v : Byte) : State := { s with DT := v }

/-- `ST <- v` (R18). -/
def State.setST (s : State) (v : Byte) : State := { s with ST := v }

/-- `stack[k]` (R16). -/
def State.stackAt (s : State) (k : BitVec 4) : Word := s.stack[k.toNat]'k.isLt

/-- `stack[k] <- v` (R16). -/
def State.setStackAt (s : State) (k : BitVec 4) (v : Word) : State :=
  { s with stack := s.stack.set k.toNat v k.isLt }

/-- `sp <- k` (R16). -/
def State.setSp (s : State) (k : BitVec 4) : State := { s with sp := k }

/-! ### Memory, framebuffer, fault latch -/

/-- `MemRead(a, 1)` (R36). -/
def State.readByte (s : State) (a : Nat) : Byte := s.mem.read s.cfg a

/-- The `len` bytes from `I` on (R34). -/
def State.readAtI (s : State) (len : Nat) : List Byte := s.mem.readBytes s.cfg s.I.toNat len

/-- `memory <- m`. -/
def State.setMem (s : State) (m : Memory) : State := { s with mem := m }

/-- Writes consecutive bytes from `I` on (R34). -/
def State.writeAtI (s : State) (bs : List Byte) : State :=
  s.setMem (s.mem.writeBytes s.cfg s.I.toNat bs)

/-- `fb <- f`. -/
def State.setFb (s : State) (f : Frame) : State := { s with fb := f }

/-- The level of `fb_push`; `push_display()` raises it (R144). -/
def State.setFbPush (s : State) (b : Bool) : State := { s with fbPush := b }

/-- The level of the port `rst` (R141). -/
def State.setRst (s : State) (b : Bool) : State := { s with rst := b }

/-- `push_display()`: one invocation of the Display Sink with `fb` as it stands (R144). -/
def State.pushDisplay (s : State) : State := s.setFbPush true

/-- `fault <- f`. -/
def State.setFault (s : State) (f : FaultLatch) : State := { s with fault := f }

/-- `DataRangeOK(base, len)`, on unbounded integers (R38). -/
def dataRangeOK (base len : Nat) : Bool := len == 0 || decide (base + len - 1 ≤ 0xFFF)

/-! ### Fatal conditions -/

/-- The cause codes of R161. -/
def FatalCause.code : FatalCause → BitVec 3
  | .fetchOob => 1
  | .stackOverflow => 2
  | .stackUnderflow => 3
  | .dataOob => 4
  | .romTooLarge => 5

/-- Fatal entry: the latch records the cause, the value of `pc` and the opcode, and nothing else of the
state changes (R166, R161). -/
def State.raiseFatal (s : State) (cause : FatalCause) (opcode : Word) : State :=
  s.setFault { valid := true, cause := cause.code, addr := s.pc, opcode := opcode }

/-- Instruction `i` ends in a fatal condition, which the latch records under the opcode of `i` (R161). -/
def fatal (cause : FatalCause) (i : Instr) (s : State) : Result :=
  .next (s.raiseFatal cause (encode i))

/-- Makes the access of `len` bytes from `I` on that instruction `i` needs: `DATA_OOB` unless the whole
range lies inside memory, tested before anything moves (R38, R165). -/
def withDataRange (len : Nat) (i : Instr) (s : State) (access : State → Result) : Result :=
  if dataRangeOK s.I.toNat len then access s else fatal .dataOob i s

/-! ### Flow -/

/-- `npc`, the address of the instruction that follows (R14, R71). -/
def State.npc (s : State) : Word := s.pc + 2

/-- `pc <- npc`, sequential flow (R70). -/
def State.advance (s : State) : State := s.setPc s.npc

/-- The instruction completes with sequential flow. -/
def sequential (s : State) : Result := .next s.advance

/-- `if cond then pc <- npc + 2 else pc <- npc`, the shared effect of the skips (40_flow.md section 5). -/
def skipIf (cond : Bool) (s : State) : Result :=
  .next (s.setPc (if cond then s.npc + 2 else s.npc))

end Sys2Proof.Machine
end

