-- ==== Sys2Proof/Machine/Agents.lean ====
section
/-! DEFINITION. The agents around the Instruction Engine (50_interfaces.md R140): the Timer Clock's tick,
reset with a ROM, and how the inputs of a step arrive. -/

namespace Sys2Proof.Machine

/-- `Tick()` on one timer: one decrement, clamped at zero (R180). -/
def tickTimer (v : Byte) : Byte := if v = 0 then 0 else v - 1

/-- `Tick()`: one event of the Timer Clock, both timers and nothing else (R180). -/
def State.tick (s : State) : State := (s.setDT (tickTimer s.DT)).setST (tickTimer s.ST)

/-- A timer after `count` ticks: `max(v - count, 0)`, the subtraction of naturals (R180, R181). -/
def countDown (count : Nat) (v : Byte) : Byte := BitVec.ofNat 8 (v.toNat - count)

/-- `count` ticks in a row, in one operation (R148 sketches it as "a burst of that many `tick` events"); that it
is `State.tick` repeated is proved in Laws/Agents.lean. -/
def State.ticks (s : State) (count : Nat) : State :=
  (s.setDT (countDown count s.DT)).setST (countDown count s.ST)

/-- The fault latch that reset leaves: `ROM_TOO_LARGE` for a ROM over 0xE00 bytes, otherwise none (R169,
R190). -/
def resetLatch (rom : List Byte) : FaultLatch :=
  if rom.length ≤ maxRomLength then FaultLatch.none
  else { valid := true, cause := FatalCause.romTooLarge.code, addr := 0, opcode := 0 }

/-- The bytes from 0x200 on that reset leaves: the ROM verbatim (R150), or, after a failed load, a free
value, since the program area is then unspecified (R169, log entry 5). -/
def loadedImage (rom : List Byte) (seq : Nat) : List Byte :=
  if rom.length ≤ maxRomLength then rom else (Config.failedLoadImage seq).take maxRomLength

/-- Reset with a ROM, `rst` down again: the whole state is built anew (R190, R192). The parameters and the
inputs are not part of it (R191). -/
def State.resetWith (s : State) (rom : List Byte) : State :=
  { State.reset with
    cfg := s.cfg
    mem := Memory.image s.cfg loadAddress (loadedImage rom s.seq)
    fb := Frame.blank s.cfg.fbWidth s.cfg.fbHeight
    fault := resetLatch rom
    now := s.now
    later := s.later
    seq := if rom.length ≤ maxRomLength then s.seq else s.seq + 1 }

/-- `rst` goes up: the reset state is built, and held until `rst` goes down (R141, log entry 9). -/
def State.assertReset (s : State) (rom : List Byte) : State := (s.resetWith rom).setRst true

/-- What the surroundings do between two steps (R143). When `rst` goes down the state stands as the
assertion built it, since `rom` was stable meanwhile (R151). -/
def State.hostEvent (s : State) : HostEvent → State
  | .ticks count => s.ticks count
  | .assertReset rom => s.assertReset rom
  | .releaseReset => s.setRst false

/-- A run of such events, oldest first. -/
def State.hostEvents (s : State) : List HostEvent → State
  | [] => s
  | e :: es => (s.hostEvent e).hostEvents es

/-- The events of the coming step have happened. -/
def State.clearEvents (s : State) : State := { s with now := { s.now with before := [] } }

/-- What happens before the engine acts on a step request: the pulse of the step before is over (R141),
and the ticks and the changes of `rst` that came since then take effect, a tick at the same instant as the step
before the step (R143). -/
def State.beginStep (s : State) : State := ((s.setFbPush false).hostEvents s.now.before).clearEvents

/-- The free input number `n`: any number of ticks, any keys, any random draw (R182, R145, R147). -/
def freeInput (n : Nat) : StepInput :=
  { before := [.ticks (Config.freeTicks n)]
    keys := Config.freeKeys n
    rnd := Config.freeRnd n }

/-- The inputs of the next step arrive: the next one given, or a free one (log entry 3). -/
def State.nextInput (s : State) : State :=
  match s.later with
  | i :: rest => { s with now := i, later := rest }
  | [] => { s with now := freeInput s.seq, seq := s.seq + 1 }

end Sys2Proof.Machine
end

