-- ==== Sys2Proof/Machine/Operands.lean ====
section
/-! DEFINITION. The operand forms (30_encoding.md R52 to R54): registers and immediates are read
directly; here stand the forms that compute. -/

namespace Sys2Proof.Machine

/-- `zext_16(nnn)` (R54). -/
def zext12 (nnn : Addr12) : Word := nnn.setWidth 16

/-- `zext_16(V[x])` (R81, R111, R112). -/
def zext8 (v : Byte) : Word := v.setWidth 16

/-- The value SHR and SHL shift: `V[x]` or `V[y]` as SHIFT_SRC says (R4, R100, R102). -/
def shiftSource (s : State) (x y : Reg) : Byte :=
  match s.cfg.shiftSrc with
  | .vx => s.reg x
  | .vy => s.reg y

/-- The key that SKP and SKNP test: the low nibble of `V[x]` (R130). -/
def keyNumber (s : State) (x : Reg) : Nat := (s.reg x).toNat % 16

/-- Whether key `k` is held at this step (R145). -/
def keyHeld (s : State) (k : Nat) : Bool := s.now.keys.getLsbD k

/-- The lowest-numbered key held at this step, if any (R146). -/
def firstHeldKey (s : State) : Option Nat := (List.range 16).find? (keyHeld s)

/-- The address of the glyph of a register value, not reduced to its low nibble (R112). -/
def glyphAddress (v : Byte) : Word := BitVec.ofNat 16 (v.toNat * 5 + fontBase)

/-- The hundreds, tens and units digits of a byte (R113). -/
def decimalDigits (v : Byte) : List Byte :=
  [BitVec.ofNat 8 (v.toNat / 100), BitVec.ofNat 8 (v.toNat / 10 % 10), BitVec.ofNat 8 (v.toNat % 10)]

end Sys2Proof.Machine
end

