-- ==== Sys2Proof/Machine/Flags.lean ====
section
/-! DEFINITION. What the flag-writing instructions put into VF (10_state.md R11). -/

namespace Sys2Proof.Machine

/-- A flag as VF holds it: 1 or 0 (R11). -/
def flagByte (b : Bool) : Byte := if b then 1 else 0

/-- Carry out of an 8-bit addition: the exact sum exceeds 255 (R98). -/
def carryOut (a b : Byte) : Bool := decide (a.toNat + b.toNat > 255)

/-- No borrow in `a - b`: `a >= b` (R99, R101). -/
def noBorrow (a b : Byte) : Bool := decide (a.toNat ≥ b.toNat)

/-- The bit SHR shifts out, bit 0 of the source (R100). -/
def lowBit (v : Byte) : Bool := v.getLsbD 0

/-- The bit SHL shifts out, bit 7 of the source (R102). -/
def highBit (v : Byte) : Bool := v.getLsbD 7

/-- The result goes to `V[x]` and then, last, the flag to VF, so that with `x = 15` VF ends as the flag
(R91). -/
def State.setRegThenFlag (s : State) (x : Reg) (result : Byte) (flag : Bool) : State :=
  (s.setReg x result).setReg VF (flagByte flag)

end Sys2Proof.Machine
end

