-- ==== Sys2Proof/Machine/Alu.lean ====
section
/-! DEFINITION. The register file and ALU instructions (41_alu.md R90 to R104): unsigned, 8 bits wide,
modulo 256 (R90). Operands are read before any write (40_flow.md R72). -/

namespace Sys2Proof.Machine

/-- LD Vx, kk (R92). -/
def execLdImm (x : Reg) (kk : Byte) (s : State) : Result := sequential (s.setReg x kk)

/-- ADD Vx, kk: no flag (R93). -/
def execAddImm (x : Reg) (kk : Byte) (s : State) : Result := sequential (s.setReg x (s.reg x + kk))

/-- LD Vx, Vy (R94). -/
def execLdReg (x y : Reg) (s : State) : Result := sequential (s.setReg x (s.reg y))

/-- OR Vx, Vy: VF is left alone (R95). -/
def execOrReg (x y : Reg) (s : State) : Result := sequential (s.setReg x (s.reg x ||| s.reg y))

/-- AND Vx, Vy: VF is left alone (R96). -/
def execAndReg (x y : Reg) (s : State) : Result := sequential (s.setReg x (s.reg x &&& s.reg y))

/-- XOR Vx, Vy: VF is left alone (R97). -/
def execXorReg (x y : Reg) (s : State) : Result := sequential (s.setReg x (s.reg x ^^^ s.reg y))

/-- ADD Vx, Vy (R98). -/
def execAddReg (x y : Reg) (s : State) : Result :=
  sequential (s.setRegThenFlag x (s.reg x + s.reg y) (carryOut (s.reg x) (s.reg y)))

/-- SUB Vx, Vy (R99). -/
def execSubReg (x y : Reg) (s : State) : Result :=
  sequential (s.setRegThenFlag x (s.reg x - s.reg y) (noBorrow (s.reg x) (s.reg y)))

/-- SHR Vx, Vy (R100). -/
def execShr (x y : Reg) (s : State) : Result :=
  sequential (s.setRegThenFlag x (shiftSource s x y >>> 1) (lowBit (shiftSource s x y)))

/-- SUBN Vx, Vy (R101). -/
def execSubnReg (x y : Reg) (s : State) : Result :=
  sequential (s.setRegThenFlag x (s.reg y - s.reg x) (noBorrow (s.reg y) (s.reg x)))

/-- SHL Vx, Vy (R102). -/
def execShl (x y : Reg) (s : State) : Result :=
  sequential (s.setRegThenFlag x (shiftSource s x y <<< 1) (highBit (shiftSource s x y)))

/-- RND Vx, kk: the random draw of this step, masked (R104). -/
def execRnd (x : Reg) (kk : Byte) (s : State) : Result := sequential (s.setReg x (s.now.rnd &&& kk))

end Sys2Proof.Machine
end

