-- ==== Sys2Proof/Machine/Display.lean ====
section
/-! DEFINITION. The display instructions (43_display.md R120 to R125). -/

namespace Sys2Proof.Machine

/-- CLS: VF is not written (R120). -/
def execCls (s : State) : Result :=
  sequential (s.setFb (Frame.blank s.cfg.fbWidth s.cfg.fbHeight)).pushDisplay

/-- The sprite of DRW drawn at `(V[x], V[y])` (R121). -/
def drawn (x y : Reg) (n : Nat) (s : State) : Frame × Bool :=
  drawSprite s.cfg.fbWidth s.cfg.fbHeight (s.reg x).toNat (s.reg y).toNat (s.readAtI n) s.fb

/-- DRW Vx, Vy, n: VF is always written, and the Display Sink always invoked (R121, R125). -/
def execDrw (x y : Reg) (n : Fin 16) (s : State) : Result :=
  withDataRange n.val (.drw x y n) s fun s =>
    sequential ((s.setFb (drawn x y n s).1).setReg VF (flagByte (drawn x y n s).2)).pushDisplay

end Sys2Proof.Machine
end

