-- ==== Sys2Proof/Machine/Flow.lean ====
section
/-! DEFINITION. The control-flow instructions and the no-op of undefined words (40_flow.md R73 to R82). -/

namespace Sys2Proof.Machine

/-- SYS nnn: only `pc` changes (R73). -/
def execSys (_nnn : Addr12) (s : State) : Result := sequential s

/-- An undefined word: only `pc` changes (R82). -/
def execNop (_word : Word) (s : State) : Result := sequential s

/-- RET (R74). -/
def execRet (s : State) : Result :=
  if s.sp = 0 then fatal .stackUnderflow .ret s
  else .next ((s.setPc (s.stackAt (s.sp - 1))).setSp (s.sp - 1))

/-- CALL nnn (R76). -/
def execCall (nnn : Addr12) (s : State) : Result :=
  if s.sp = 15 then fatal .stackOverflow (.call nnn) s
  else .next (((s.setStackAt s.sp s.npc).setSp (s.sp + 1)).setPc (zext12 nnn))

/-- JP nnn (R75). -/
def execJp (nnn : Addr12) (s : State) : Result := .next (s.setPc (zext12 nnn))

/-- JP V0, nnn: the 16-bit sum, not reduced to 12 bits (R81). -/
def execJpV0 (nnn : Addr12) (s : State) : Result := .next (s.setPc (zext12 nnn + zext8 (s.reg 0)))

/-- SE Vx, kk (R77). -/
def execSeImm (x : Reg) (kk : Byte) (s : State) : Result := skipIf (s.reg x == kk) s

/-- SNE Vx, kk (R78). -/
def execSneImm (x : Reg) (kk : Byte) (s : State) : Result := skipIf (s.reg x != kk) s

/-- SE Vx, Vy (R79). -/
def execSeReg (x y : Reg) (s : State) : Result := skipIf (s.reg x == s.reg y) s

/-- SNE Vx, Vy (R80). -/
def execSneReg (x y : Reg) (s : State) : Result := skipIf (s.reg x != s.reg y) s

end Sys2Proof.Machine
end

