-- ==== Sys2Proof/Machine/Index.lean ====
section
/-! DEFINITION. The index register and memory instructions (42_index_memory.md R110 to R115). No access
changes `I`. -/

namespace Sys2Proof.Machine

/-- LD I, nnn (R110). -/
def execLdI (nnn : Addr12) (s : State) : Result := sequential (s.setI (zext12 nnn))

/-- ADD I, Vx: 16-bit wrap, no flag (R111). -/
def execAddI (x : Reg) (s : State) : Result := sequential (s.setI (s.I + zext8 (s.reg x)))

/-- LD F, Vx (R112). -/
def execLdF (x : Reg) (s : State) : Result := sequential (s.setI (glyphAddress (s.reg x)))

/-- LD B, Vx (R113). -/
def execLdB (x : Reg) (s : State) : Result :=
  withDataRange 3 (.ldB x) s fun s => sequential (s.writeAtI (decimalDigits (s.reg x)))

/-- LD [I], Vx, the register dump (R114). -/
def execDumpRegs (x : Reg) (s : State) : Result :=
  withDataRange (x.val + 1) (.dumpRegs x) s fun s => sequential (s.writeAtI (s.regsTo x))

/-- LD Vx, [I], the register load (R115). -/
def execLoadRegs (x : Reg) (s : State) : Result :=
  withDataRange (x.val + 1) (.loadRegs x) s fun s => sequential (s.setRegsTo x (s.readAtI (x.val + 1)))

end Sys2Proof.Machine
end

