-- ==== Sys2Proof/Machine/Keypad.lean ====
section
/-! DEFINITION. The keypad and timer instructions (44_keypad_timers.md R130 to R136). -/

namespace Sys2Proof.Machine

/-- SKP Vx (R130). -/
def execSkp (x : Reg) (s : State) : Result := skipIf (keyHeld s (keyNumber s x)) s

/-- SKNP Vx (R131). -/
def execSknp (x : Reg) (s : State) : Result := skipIf (!keyHeld s (keyNumber s x)) s

/-- LD Vx, K: with no key held the step holds, writing nothing (R132). -/
def execLdVxK (x : Reg) (s : State) : Result :=
  match firstHeldKey s with
  | none => .next s
  | some k => sequential (s.setReg x (BitVec.ofNat 8 k))

/-- LD Vx, DT (R133). -/
def execLdVxDT (x : Reg) (s : State) : Result := sequential (s.setReg x s.DT)

/-- LD DT, Vx (R134). -/
def execLdDTVx (x : Reg) (s : State) : Result := sequential (s.setDT (s.reg x))

/-- LD ST, Vx (R135). -/
def execLdSTVx (x : Reg) (s : State) : Result := sequential (s.setST (s.reg x))

end Sys2Proof.Machine
end

