-- ==== Sys2Proof/Machine/Engine.lean ====
section
/-! DEFINITION. Fetch, decode and execute: one step of the Instruction Engine (40_flow.md R70, R71). -/

namespace Sys2Proof.Machine

/-- The opcode at `pc`, high byte first, when both of its bytes are inside memory (R71, R33). -/
def State.fetch (s : State) : Option Word :=
  if s.pc.toNat ≤ lastFetch then
    some (opcodeOf (s.readByte s.pc.toNat) (s.readByte (s.pc.toNat + 1)))
  else none

/-- `Step(keys, rnd)` of R70: fetch, decode, execute. With the fault latch set the engine takes no step
at all (R167). A failed fetch records opcode 0 (R161). -/
def engineStep (s : State) : Result :=
  if s.fault.valid then .next s
  else
    match s.fetch with
    | none => .next (s.raiseFatal .fetchOob 0x0000)
    | some op => exec (decodeWord op) s

/-- Applies an operation to the next state of a result. -/
def Result.map (f : State → State) : Result → Result
  | .next s => .next (f s)
  | .fault r => .fault r
  | .refused r => .refused r

/-- What the engine does on a request: one step, and while `rst` is asserted nothing (R142). -/
def requestedStep (s : State) : Result := if s.rst then .next s else engineStep s

/-- One step request: what came before it takes effect, the engine acts, and the inputs of the next
request arrive (R142, R143). -/
def stepRequest (s : State) : Result := Result.map State.nextInput (requestedStep s.beginStep)

/-- Keeps an event that leaves the program in place and the engine stepping. -/
def HostEvent.isTicks : HostEvent → Bool
  | .ticks _ => true
  | .assertReset _ => false
  | .releaseReset => false

/-- `s` ready to run: no reset asserted or pending, no fault latched, and `pc` where a fetch succeeds. A
state that is so already is not changed. -/
def State.readied (s : State) : State :=
  { s with
    now := { s.now with before := s.now.before.filter HostEvent.isTicks }
    rst := false
    fault := if s.fault.valid then FaultLatch.none else s.fault
    pc := if s.pc.toNat ≤ lastFetch then s.pc else BitVec.ofNat 16 loadAddress }

/-- Stores an opcode where the next fetch reads it, high byte first (R33). -/
def State.placeOpcode (s : State) (op : Word) : State :=
  s.setMem (s.mem.writeBytes s.cfg s.pc.toNat [hiByte op, loByte op])

end Sys2Proof.Machine
end

