-- ==== Sys2Proof/Machine/Step.lean ====
section
/-! DEFINITION. The step of the machine, and how a word is placed for it to run next. -/

namespace Sys2Proof.Machine

/-- One step request of the driver (50_interfaces.md R142). -/
def step (s : State) : Host.Outcome State Fault Refusal := stepRequest s

/-- `s` with the instruction whose table bits are `w` stored where `step` fetches its next instruction
(log entry 6). -/
def State.withFetchWord (s : State) (nbits w : Nat) : State :=
  s.readied.placeOpcode (BitVec.ofNat 16 (w % 2 ^ nbits))

end Sys2Proof.Machine
end

