-- ==== Sys2Proof/WellFormed.lean ====
section
/-! DEFINITION. Which terms of `Instr` are instructions. The types carry every field width (R52); two
constructors need a check: SYS is not CLS's or RET's word (R56), and row 36 holds only the undefined
words of 30_encoding.md R57. -/

namespace Sys2Proof

/-- The undefined words, family by family, as the table of R57 lists them. -/
def undefinedWord (op : Word) : Bool :=
  match (familyOf op).val with
  | 0x5 => nOf op != 0
  | 0x8 => [0x8, 0x9, 0xA, 0xB, 0xC, 0xD, 0xF].contains (nOf op)
  | 0x9 => nOf op != 0
  | 0xE => !([0x9E#8, 0xA1#8].contains (kkOf op))
  | 0xF => !([0x07#8, 0x0A#8, 0x15#8, 0x18#8, 0x1E#8, 0x29#8, 0x33#8, 0x55#8, 0x65#8].contains (kkOf op))
  | _ => false

/-- Well-formed instructions: those some word of R55 stands for. -/
def Instr.wf : Instr → Bool
  | .sys nnn => nnn != 0x0E0#12 && nnn != 0x0EE#12
  | .nop word => undefinedWord word
  | .cls | .ret | .jp _ | .call _ | .seImm _ _ | .sneImm _ _ | .seReg _ _ | .ldImm _ _ | .addImm _ _ => true
  | .ldReg _ _ | .orReg _ _ | .andReg _ _ | .xorReg _ _ | .addReg _ _ | .subReg _ _ => true
  | .shr _ _ | .subnReg _ _ | .shl _ _ | .sneReg _ _ | .ldI _ | .jpV0 _ | .rnd _ _ | .drw _ _ _ => true
  | .skp _ | .sknp _ | .ldVxDT _ | .ldVxK _ | .ldDTVx _ | .ldSTVx _ | .addI _ => true
  | .ldF _ | .ldB _ | .dumpRegs _ | .loadRegs _ => true

end Sys2Proof
end

