-- ==== Sys2Proof/Safety.lean ====
section
/-! DEFINITION. The terms in which claims are stated: the invariant of the machine (10_state.md R23,
40_flow.md R83), a state in which the engine runs, the end of a run (70_reset_and_hazards.md R198), and
small functions over runs of instructions. -/

namespace Sys2Proof.Machine

/-- No fatal condition has been latched, so that the engine takes the steps it is asked for (R167). -/
abbrev State.running (s : State) : Prop := s.fault.valid = false

/-- The latch is either clear or holds one of the five causes of R161, and, unless the load failed,
the address of the instruction that `pc` still points to (R166). -/
def State.latchInv (s : State) : Prop :=
  (s.fault.valid = false → s.fault = FaultLatch.none) ∧
  (s.fault.valid = true → 1 ≤ s.fault.cause.toNat ∧ s.fault.cause.toNat ≤ 5 ∧
    (s.fault.cause ≠ FatalCause.romTooLarge.code → s.fault.addr = s.pc))

/-- The block is held in reset: but for the inputs, the state is the one that `rst` going up with some ROM
leaves (R141). -/
def State.heldInReset (s : State) : Prop :=
  ∃ (u : State) (rom : List Byte),
    s = { u.assertReset rom with now := s.now, later := s.later, seq := s.seq }

/-- What holds in every state reachable from reset: memory in its canonical form and inside the address
space, the grid of the size the parameters give, `pc` and every return address within the bounds of
R83, the last stack entry never written (R16), the latch as above, and the block held in reset while
`rst` is asserted (R141). (`sp`, the timers and the
registers are within their ranges by their types, R23.) -/
structure State.Inv (s : State) : Prop where
  mem : s.mem.wf s.cfg = true
  fb : s.fb.wf s.cfg.fbWidth s.cfg.fbHeight
  pc : s.pc.toNat ≤ 0x10FE
  stack : ∀ k : BitVec 4, (s.stackAt k).toNat ≤ 0x1000
  stackTop : s.stackAt 15 = 0
  latch : s.latchInv
  held : s.rst = true → s.heldInReset

/-- The conventional end of a run: a JP to its own address (R198). -/
def State.spinning (s : State) : Prop :=
  s.running ∧ s.pc.toNat ≤ 0xFFE ∧ s.fetch = some (formatA 0x1 (s.pc.setWidth 12))

/-- No fault is latched in `s` nor after any of the first `k` step requests from it. -/
def safeRun : Nat → State → Prop
  | 0, s => s.running
  | k + 1, s => s.running ∧ ∃ t, step s = .next t ∧ safeRun k t

/-- Executes instructions one after the other from `s`, taking no heed of `pc`. -/
def execAll (s : State) : List Instr → Result
  | [] => .next s
  | i :: is =>
    match exec i s with
    | .next t => execAll t is
    | .fault r => .fault r
    | .refused r => .refused r

/-- `t` is `s` but for the general registers, and `pc` is the address of the next instruction: the
whole frame of an instruction that writes registers only. -/
abbrev State.onlyRegisters (s t : State) : Prop := t = { s with V := t.V, pc := s.pc + 2 }

/-- Every general register outside the list holds in `t` what it held in `s`. -/
abbrev State.registersBut (xs : List Reg) (s t : State) : Prop := ∀ r, r ∉ xs → t.reg r = s.reg r

/-- Every byte outside the `len` addresses from `base` on reads in `t` as in `s`. -/
abbrev State.bytesBut (base len : Nat) (s t : State) : Prop :=
  ∀ a, a < base ∨ base + len ≤ a → t.readByte a = s.readByte a

/-- Some set bit of the sprite of DRW Vx, Vy, n lands on pixel `(r, c)`: bit `7 - col` of row `row`
lands at column `(V[x] + col) mod FB_WIDTH` and row `(V[y] + row) mod FB_HEIGHT` (R122). -/
def State.spriteCovers (s : State) (x y : Reg) (n r c : Nat) : Prop :=
  ∃ row col, row < n ∧ col < 8 ∧ (s.readByte (s.I.toNat + row)).getLsbD (7 - col) = true ∧
    r = ((s.reg y).toNat + row) % s.cfg.fbHeight ∧ c = ((s.reg x).toNat + col) % s.cfg.fbWidth

/-- The addresses that a run of calls from `s` pushes, in the order it pushes them: the address after
each call (R76). -/
def returnAddresses (s : State) (targets : List Addr12) : List Word :=
  ((s.pc :: targets.map zext12).take targets.length).map (· + 2)

/-- The number of ticks among the events before the coming step. -/
def tickCount : List HostEvent → Nat
  | [] => 0
  | .ticks n :: es => n + tickCount es
  | .assertReset _ :: es => tickCount es
  | .releaseReset :: es => tickCount es

/-- `rst` does not change before the coming step. -/
def State.noReset (s : State) : Prop := s.now.before.all HostEvent.isTicks = true

end Sys2Proof.Machine

namespace Sys2Proof

/-- The instructions that give `pc` a value of their own: jumps, call, return, skips and the wait for a
key (R14). -/
def Instr.ownPc : Instr → Bool
  | .ret | .jp _ | .call _ | .jpV0 _ | .seImm _ _ | .sneImm _ _ | .seReg _ _ | .sneReg _ _ => true
  | .skp _ | .sknp _ | .ldVxK _ => true
  | .cls | .sys _ | .ldImm _ _ | .addImm _ _ | .ldReg _ _ | .orReg _ _ | .andReg _ _ | .xorReg _ _ => false
  | .addReg _ _ | .subReg _ _ | .shr _ _ | .subnReg _ _ | .shl _ _ | .ldI _ | .rnd _ _ | .drw _ _ _ => false
  | .ldVxDT _ | .ldDTVx _ | .ldSTVx _ | .addI _ | .ldF _ | .ldB _ | .dumpRegs _ | .loadRegs _ => false
  | .nop _ => false

/-- The instructions that look at the key lines (R145). -/
def Instr.readsKeys : Instr → Bool
  | .skp _ | .sknp _ | .ldVxK _ => true
  | .cls | .ret | .sys _ | .jp _ | .call _ | .seImm _ _ | .sneImm _ _ | .seReg _ _ | .ldImm _ _ => false
  | .addImm _ _ | .ldReg _ _ | .orReg _ _ | .andReg _ _ | .xorReg _ _ | .addReg _ _ | .subReg _ _ => false
  | .shr _ _ | .subnReg _ _ | .shl _ _ | .sneReg _ _ | .ldI _ | .jpV0 _ | .rnd _ _ | .drw _ _ _ => false
  | .ldVxDT _ | .ldDTVx _ | .ldSTVx _ | .addI _ | .ldF _ | .ldB _ | .dumpRegs _ | .loadRegs _ => false
  | .nop _ => false

/-- The instructions that consume the random draw (R147). -/
def Instr.readsRnd : Instr → Bool
  | .rnd _ _ => true
  | .cls | .ret | .sys _ | .jp _ | .call _ | .seImm _ _ | .sneImm _ _ | .seReg _ _ | .ldImm _ _ => false
  | .addImm _ _ | .ldReg _ _ | .orReg _ _ | .andReg _ _ | .xorReg _ _ | .addReg _ _ | .subReg _ _ => false
  | .shr _ _ | .subnReg _ _ | .shl _ _ | .sneReg _ _ | .ldI _ | .jpV0 _ | .drw _ _ _ => false
  | .skp _ | .sknp _ | .ldVxK _ | .ldVxDT _ | .ldDTVx _ | .ldSTVx _ | .addI _ | .ldF _ | .ldB _ => false
  | .dumpRegs _ | .loadRegs _ | .nop _ => false

/-- The instructions whose named destination register is VF (R11). -/
def Instr.namesVF : Instr → Bool
  | .ldImm x _ | .addImm x _ | .ldReg x _ | .orReg x _ | .andReg x _ | .xorReg x _ | .rnd x _ => x == VF
  | .ldVxDT x | .ldVxK x | .loadRegs x => x == VF
  | .cls | .ret | .sys _ | .jp _ | .call _ | .seImm _ _ | .sneImm _ _ | .seReg _ _ => false
  | .addReg _ _ | .subReg _ _ | .shr _ _ | .subnReg _ _ | .shl _ _ | .sneReg _ _ | .ldI _ => false
  | .jpV0 _ | .drw _ _ _ | .skp _ | .sknp _ | .ldDTVx _ | .ldSTVx _ | .addI _ | .ldF _ | .ldB _ => false
  | .dumpRegs _ | .nop _ => false

/-- The six instructions that write VF as a side effect (R11). -/
def Instr.writesFlag : Instr → Bool
  | .addReg _ _ | .subReg _ _ | .subnReg _ _ | .shr _ _ | .shl _ _ | .drw _ _ _ => true
  | .cls | .ret | .sys _ | .jp _ | .call _ | .seImm _ _ | .sneImm _ _ | .seReg _ _ | .ldImm _ _ => false
  | .addImm _ _ | .ldReg _ _ | .orReg _ _ | .andReg _ _ | .xorReg _ _ | .sneReg _ _ | .ldI _ => false
  | .jpV0 _ | .rnd _ _ | .skp _ | .sknp _ | .ldVxDT _ | .ldVxK _ | .ldDTVx _ | .ldSTVx _ => false
  | .addI _ | .ldF _ | .ldB _ | .dumpRegs _ | .loadRegs _ | .nop _ => false

end Sys2Proof
end

