-- ==== Sys2Proof/Certificates/Slice0/Obligations.lean ====
section
/-! DEFINITION. The statements for the provers. Each docstring names the rule of spec/ it formalises. A
statement about one instruction says which word decodes to it, that it completes, every value it writes,
and its whole frame: `t = { s with … }` lists every field that may differ, memory and special registers
included; `registersBut` says which general registers may differ; `bytesBut` which bytes.
Which word decodes to an instruction rests on the bit patterns of R55, all but four of which the spec marks
as general knowledge (log entry 14). -/

open Sys2Proof Sys2Proof.Machine

/-! ### Encoding -/

/-- The words the source prints, and one word of every family, written out from the patterns of
30_encoding.md R55. -/
def Obligations.WordsOfTheSpecDecode : Prop :=
  decodeWord 0x00E0 = .cls ∧ decodeWord 0x00EE = .ret ∧ decodeWord 0x0123 = .sys 0x123 ∧
  decodeWord 0x1200 = .jp 0x200 ∧ decodeWord 0x2ABC = .call 0xABC ∧ decodeWord 0x332A = .seImm 3 0x2A ∧
  decodeWord 0x432A = .sneImm 3 0x2A ∧ decodeWord 0x5120 = .seReg 1 2 ∧ decodeWord 0x6A2F = .ldImm 10 0x2F ∧
  decodeWord 0x71FF = .addImm 1 0xFF ∧ decodeWord 0x812E = .shl 1 2 ∧ decodeWord 0x9120 = .sneReg 1 2 ∧
  decodeWord 0xA050 = .ldI 0x050 ∧ decodeWord 0xB2F0 = .jpV0 0x2F0 ∧ decodeWord 0xC30F = .rnd 3 0x0F ∧
  decodeWord 0xD005 = .drw 0 0 5 ∧ decodeWord 0xE5A1 = .sknp 5 ∧ decodeWord 0xF265 = .loadRegs 2 ∧
  decodeWord 0x8AB9 = .nop 0x8AB9 ∧ decodeWord 0xF1FF = .nop 0xF1FF

/-- Decode of encode is the identity on the well-formed instructions, all of them (R55). -/
def Obligations.DecodeOfEncodeIsTheInstruction : Prop :=
  ∀ i : Instr, i.wf = true → decodeWord (encode i) = i

/-- Every one of the 65536 words decodes to a well-formed instruction whose word it is: decoding is total
and forgets no bit (R56, R57). -/
def Obligations.EveryWordIsOneInstruction : Prop :=
  ∀ op : Word, (decodeWord op).wf = true ∧ encode (decodeWord op) = op

/-- The decoder takes the first row of the opcode map whose pattern matches (R55, R56). -/
def Obligations.DecodeTakesTheFirstMatchingRow : Prop :=
  ∀ op : Word, (decodeWord op).row = firstMatch op

/-- Rows 4 to 35 are pairwise disjoint and disjoint from rows 1 to 3: of two different rows with a number
from 4 to 35 on one side and from 1 to 35 on the other, no word matches both (R56). -/
def Obligations.RowsFourToThirtyFiveAreDisjoint : Prop :=
  ∀ (op : Word) (i j : Nat) (p q : Word × Word), i ≠ j → 3 ≤ i → i < 35 → j < 35 →
    opcodeMap[i]? = some p → opcodeMap[j]? = some q → ¬ (rowMatches op p = true ∧ rowMatches op q = true)

/-! ### The step -/

/-- When `rst` is not asserted, no fault is latched and the two bytes at `pc` decode to `i`, the step is what
came before it (`beginStep`), then `exec i`, then the arrival of the next inputs (R70, R142; how inputs arrive
is the model's, log entry 3). -/
def Obligations.StepRunsTheDecodedInstruction : Prop :=
  ∀ (s : State) (i : Instr) (rest : List Byte), s.beginStep.rst = false → s.beginStep.running → s.beginStep.pc.toNat ≤ 0xFFE →
    decodeBytes [s.beginStep.readByte s.beginStep.pc.toNat, s.beginStep.readByte (s.beginStep.pc.toNat + 1)]
      = .ok (i, rest) →
    step s = Result.map State.nextInput (exec i s.beginStep)

/-- With no change of `rst` among them, the events before a step change the timers and end the pulse of the
step before, and nothing else: each timer falls by the number of ticks, clamped at zero (R180, R148, R182; the
event list and the pulse are the model's, log entries 3 and 11). What a reset among them does is
`ResetBeforeAStepRebuildsTheState`. -/
def Obligations.EventsBeforeAStepAreTicks : Prop :=
  ∀ s : State, s.noReset →
    s.beginStep = { s with DT := s.beginStep.DT, ST := s.beginStep.ST, fbPush := false,
                           now := { s.now with before := [] } } ∧
    s.beginStep.DT.toNat = s.DT.toNat - tickCount s.now.before ∧
    s.beginStep.ST.toNat = s.ST.toNat - tickCount s.now.before

/-- A word placed by `withFetchWord` is the one the very next step runs, from every state (the host's
interface, log entry 6). -/
def Obligations.PlacedWordRunsNext : Prop :=
  ∀ (s : State) (w : Nat), s.mem.wf s.cfg = true →
    step (s.withFetchWord 16 w) =
      Result.map State.nextInput (exec (decodeWord (BitVec.ofNat 16 w)) (s.withFetchWord 16 w).beginStep)

/-- Every step request answers a state: no word lacks an outcome (R57), and each outcome of R70, a fatal
condition included, is a state the spec describes (R166). That a fatal condition, and a request on a faulted
engine, are answered with a next state and not with a stop is the model's choice, log entry 7: an answer does
not mean that the engine ran. -/
def Obligations.EveryStepHasANextState : Prop :=
  ∀ s : State, ∃ t, step s = .next t

/-- FETCH_OOB: with `pc` above 0xFFE the step raises it, records `pc` and opcode 0, and changes nothing
else (R162, R161; the latch and its codes are the spec's decision D7). -/
def Obligations.FetchOutsideMemoryIsFatal : Prop :=
  ∀ s : State, s.running → 0xFFE < s.pc.toNat →
    engineStep s = .next { s with fault := { valid := true, cause := 1, addr := s.pc, opcode := 0x0000 } }

/-- Once the latch is set a step request does nothing to the machine: with no change of `rst` before it,
the timers fall by the ticks that came, clamped at zero, and nothing else of the machine changes (R167, R148;
the latch is the spec's decision D7, that ticks go on its decision D19). The pulse and the input fields are
the model's (log entries 3 and 11). What a reset does is `ResetBeforeAStepRebuildsTheState`. -/
def Obligations.FaultedEngineTakesNoStep : Prop :=
  ∀ s : State, s.fault.valid = true → s.noReset →
    ∃ t, step s = .next t ∧
      t = { s with DT := t.DT, ST := t.ST, fbPush := false, now := t.now, later := t.later, seq := t.seq } ∧
      t.DT.toNat = s.DT.toNat - tickCount s.now.before ∧ t.ST.toNat = s.ST.toNat - tickCount s.now.before

/-- Fatal entry changes no Machine State: an instruction after which the latch differs has written the
latch with a valid cause, the address of the instruction and its opcode, and nothing else (R166,
R161; the spec's decision D7). -/
def Obligations.FatalEntryWritesOnlyTheLatch : Prop :=
  ∀ (i : Instr) (s t : State), exec i s = .next t → t.fault ≠ s.fault →
    t = { s with fault := t.fault } ∧ t.fault.valid = true ∧ t.fault.addr = s.pc ∧ t.fault.opcode = encode i ∧
    2 ≤ t.fault.cause.toNat ∧ t.fault.cause.toNat ≤ 4

/-- Each instruction has at most one check of its own: from a state with no fault latched, the latch is
set afterwards exactly when the check of that instruction fails, with that check's cause (R168, R161; the
latch and its causes are the spec's decision D7, the limit of 15 its decision D6, the data check its decision
D5, all in log entry 13). -/
def Obligations.EachInstructionHasAtMostOneCheck : Prop :=
  ∀ (i : Instr) (s t : State), s.running → exec i s = .next t →
    (t.fault.valid = true ↔
      (∃ nnn, i = .call nnn ∧ s.sp = 15 ∧ t.fault.cause = FatalCause.stackOverflow.code) ∨
      (i = .ret ∧ s.sp = 0 ∧ t.fault.cause = FatalCause.stackUnderflow.code) ∨
      ((∃ len, 0 < len ∧ 0xFFF < s.I.toNat + len - 1 ∧
          ((∃ x y n, i = .drw x y n ∧ len = n.val) ∨ (∃ x, i = .ldB x ∧ len = 3) ∨
           (∃ x, i = .dumpRegs x ∧ len = x.val + 1) ∨ (∃ x, i = .loadRegs x ∧ len = x.val + 1))) ∧
        t.fault.cause = FatalCause.dataOob.code))

/-- `pc` advances by 2 in every completed instruction that has no `pc` of its own: all but the jumps, CALL,
RET, the skips and LD Vx,K (R70, R14). -/
def Obligations.SequentialFlowAdvancesByTwo : Prop :=
  ∀ (i : Instr) (s t : State), i.ownPc = false → exec i s = .next t →
    t.fault.valid = false → t.pc = s.pc + 2

/-- A JP to its own address changes nothing: in a spinning state the engine's step is the identity
(R198 (b)). -/
def Obligations.SpinChangesNothing : Prop :=
  ∀ s : State, s.spinning → engineStep s = .next s

/-! ### No-ops, skips, jumps -/

/-- SYS changes `pc` only (R73; that SYS is a no-op is the spec's decision D8). -/
def Obligations.SysIsANoOp : Prop :=
  ∀ (nnn : Addr12) (s : State), nnn ≠ 0x0E0 → nnn ≠ 0x0EE →
    decodeWord (formatA 0x0 nnn) = .sys nnn ∧ exec (.sys nnn) s = .next { s with pc := s.pc + 2 }

/-- Every undefined word changes `pc` only: no register, no flag, no memory, no timer, no pixel, and the
Display Sink is not invoked (R82; which words they are is R57, in families 5 and 9 the spec's decision
D8). -/
def Obligations.UndefinedWordsAreNoOps : Prop :=
  ∀ (op : Word) (s : State), undefinedWord op = true →
    decodeWord op = .nop op ∧ exec (.nop op) s = .next { s with pc := s.pc + 2 }

/-- SE and SNE against an immediate skip one instruction on their condition and write nothing but `pc`
(R77, R78). -/
def Obligations.ImmediateSkips : Prop :=
  ∀ (x : Reg) (kk : Byte) (s : State),
    decodeWord (formatXK 0x3 x kk) = .seImm x kk ∧ decodeWord (formatXK 0x4 x kk) = .sneImm x kk ∧
    (s.reg x = kk → exec (.seImm x kk) s = .next { s with pc := s.pc + 4 } ∧
                    exec (.sneImm x kk) s = .next { s with pc := s.pc + 2 }) ∧
    (s.reg x ≠ kk → exec (.seImm x kk) s = .next { s with pc := s.pc + 2 } ∧
                    exec (.sneImm x kk) s = .next { s with pc := s.pc + 4 })

/-- SE and SNE between registers; with a fourth nibble other than 0 neither word is a skip (R79,
R80; that last clause is the spec's decision D8). -/
def Obligations.RegisterSkips : Prop :=
  ∀ (x y : Reg) (s : State),
    (∀ n : Fin 16, n ≠ 0 → decodeWord (formatXYN 0x5 x y n) = .nop (formatXYN 0x5 x y n) ∧
                           decodeWord (formatXYN 0x9 x y n) = .nop (formatXYN 0x9 x y n)) ∧
    decodeWord (formatXYN 0x5 x y 0) = .seReg x y ∧ decodeWord (formatXYN 0x9 x y 0) = .sneReg x y ∧
    (s.reg x = s.reg y → exec (.seReg x y) s = .next { s with pc := s.pc + 4 } ∧
                         exec (.sneReg x y) s = .next { s with pc := s.pc + 2 }) ∧
    (s.reg x ≠ s.reg y → exec (.seReg x y) s = .next { s with pc := s.pc + 2 } ∧
                         exec (.sneReg x y) s = .next { s with pc := s.pc + 4 })

/-- JP and JP V0: the target is the 12-bit address, or its sum with V0 not reduced to 12 bits, and nothing
but `pc` changes (R75, R81; that the sum is not reduced is the spec's decision D24). -/
def Obligations.JumpTargets : Prop :=
  ∀ (nnn : Addr12) (s : State),
    decodeWord (formatA 0x1 nnn) = .jp nnn ∧ decodeWord (formatA 0xB nnn) = .jpV0 nnn ∧
    (∃ t, exec (.jp nnn) s = .next t ∧ t = { s with pc := t.pc } ∧ t.pc.toNat = nnn.toNat) ∧
    (∃ t, exec (.jpV0 nnn) s = .next t ∧ t = { s with pc := t.pc } ∧
      t.pc.toNat = nnn.toNat + (s.reg 0).toNat)

/-! ### Subroutines -/

/-- CALL below the limit pushes the address after itself and jumps; nothing else changes (R76; the limit
and the entry used are the spec's decision D6). -/
def Obligations.CallPushesTheReturnAddress : Prop :=
  ∀ (nnn : Addr12) (s : State),
    decodeWord (formatA 0x2 nnn) = .call nnn ∧
    (s.sp.toNat < 15 → ∃ t, exec (.call nnn) s = .next t ∧
      t = { s with stack := t.stack, sp := t.sp, pc := t.pc } ∧
      t.stackAt s.sp = s.pc + 2 ∧ (∀ k, k ≠ s.sp → t.stackAt k = s.stackAt k) ∧
      t.sp.toNat = s.sp.toNat + 1 ∧ t.pc.toNat = nnn.toNat)

/-- RET with an address held pops it; the popped entry keeps its value and nothing but `pc` and `sp`
changes. With none held it is fatal, and then nothing but the latch is written (R74, R164, R166; the latch is
the spec's decision D7, log entries 7 and 13). -/
def Obligations.ReturnPopsTheAddress : Prop :=
  decodeWord 0x00EE = .ret ∧
  ∀ s : State,
    (0 < s.sp.toNat → ∃ t, exec .ret s = .next t ∧ t = { s with sp := t.sp, pc := t.pc } ∧
      t.sp.toNat + 1 = s.sp.toNat ∧ t.pc = s.stackAt t.sp) ∧
    (s.sp = 0 → ∃ t, exec .ret s = .next t ∧ t = { s with fault := t.fault } ∧ t.fault.valid = true)

/-- STACK_OVERFLOW and STACK_UNDERFLOW: CALL with `sp = 15` and RET with `sp = 0` push and pop nothing and
leave `pc`; the latch records them (R163, R164; the latch and its codes are the spec's decision D7, the
limit of 15 its decision D6). -/
def Obligations.StackLimitsAreFatal : Prop :=
  (∀ (nnn : Addr12) (s : State), s.sp = 15 → exec (.call nnn) s =
    .next { s with fault := { valid := true, cause := 2, addr := s.pc, opcode := formatA 0x2 nnn } }) ∧
  (∀ s : State, s.sp = 0 → exec .ret s =
    .next { s with fault := { valid := true, cause := 3, addr := s.pc, opcode := 0x00EE } })

/-- Stack discipline: after N calls in a row, the `k`-th return goes to the address after the `k`-th call
from the end (R84). -/
def Obligations.NestedCallsReturnInReverseOrder : Prop :=
  ∀ (targets : List Addr12) (s : State) (k : Nat), s.sp.toNat + targets.length ≤ 15 → 1 ≤ k →
    k ≤ targets.length →
    ∃ u, execAll s (targets.map Instr.call ++ List.replicate k Instr.ret) = .next u ∧
      u = { s with stack := u.stack, sp := u.sp, pc := u.pc } ∧
      u.sp.toNat + k = s.sp.toNat + targets.length ∧
      (returnAddresses s targets)[targets.length - k]? = some u.pc

/-- After N calls from an empty stack and N returns, the next return is the fatal underflow (R84). -/
def Obligations.OneReturnTooManyUnderflows : Prop :=
  ∀ (targets : List Addr12) (s : State), s.sp = 0 → targets.length ≤ 15 →
    ∃ u, execAll s (targets.map Instr.call ++ List.replicate targets.length Instr.ret) = .next u ∧
      exec .ret u = .next { u with fault := { valid := true, cause := 3, addr := u.pc, opcode := 0x00EE } }

/-! ### Register file and ALU -/

/-- LD Vx, kk and ADD Vx, kk: the immediate, and the sum modulo 256 with no flag (R92, R93). -/
def Obligations.ImmediateLoadAndAdd : Prop :=
  ∀ (x : Reg) (kk : Byte) (s : State),
    decodeWord (formatXK 0x6 x kk) = .ldImm x kk ∧ decodeWord (formatXK 0x7 x kk) = .addImm x kk ∧
    (∃ t, exec (.ldImm x kk) s = .next t ∧ s.onlyRegisters t ∧ s.registersBut [x] t ∧ t.reg x = kk) ∧
    (∃ t, exec (.addImm x kk) s = .next t ∧ s.onlyRegisters t ∧ s.registersBut [x] t ∧
      (t.reg x).toNat = ((s.reg x).toNat + kk.toNat) % 256)

/-- LD Vx, Vy and the three logic operations, bit by bit; VF is left alone unless it is `V[x]` (R94 to R97). -/
def Obligations.CopyAndLogic : Prop :=
  ∀ (x y : Reg) (s : State),
    decodeWord (formatXYN 0x8 x y 0) = .ldReg x y ∧ decodeWord (formatXYN 0x8 x y 1) = .orReg x y ∧
    decodeWord (formatXYN 0x8 x y 2) = .andReg x y ∧ decodeWord (formatXYN 0x8 x y 3) = .xorReg x y ∧
    (∃ t, exec (.ldReg x y) s = .next t ∧ s.onlyRegisters t ∧ s.registersBut [x] t ∧ t.reg x = s.reg y) ∧
    (∃ t, exec (.orReg x y) s = .next t ∧ s.onlyRegisters t ∧ s.registersBut [x] t ∧
      ∀ b, b < 8 → (t.reg x).getLsbD b = ((s.reg x).getLsbD b || (s.reg y).getLsbD b)) ∧
    (∃ t, exec (.andReg x y) s = .next t ∧ s.onlyRegisters t ∧ s.registersBut [x] t ∧
      ∀ b, b < 8 → (t.reg x).getLsbD b = ((s.reg x).getLsbD b && (s.reg y).getLsbD b)) ∧
    (∃ t, exec (.xorReg x y) s = .next t ∧ s.onlyRegisters t ∧ s.registersBut [x] t ∧
      ∀ b, b < 8 → (t.reg x).getLsbD b = ((s.reg x).getLsbD b ^^ (s.reg y).getLsbD b))

/-- ADD Vx, Vy: VF is 1 if the sum exceeds 255, else 0, written last; `V[x]`, unless it is VF, is the sum
modulo 256 (R98, R91; that the flag is written last is the spec's decision D3). -/
def Obligations.AddSetsTheCarry : Prop :=
  ∀ (x y : Reg) (s : State),
    decodeWord (formatXYN 0x8 x y 4) = .addReg x y ∧
    ∃ t, exec (.addReg x y) s = .next t ∧ s.onlyRegisters t ∧ s.registersBut [x, VF] t ∧
      t.reg VF = (if (s.reg x).toNat + (s.reg y).toNat > 255 then 1 else 0) ∧
      (x ≠ VF → (t.reg x).toNat = ((s.reg x).toNat + (s.reg y).toNat) % 256)

/-- SUB and SUBN: VF is 1 if there is no borrow, else 0, written last; `V[x]`, unless it is VF, is the
difference modulo 256 (R99, R101, R91; that the flag is written last is the spec's decision D3). -/
def Obligations.SubtractSetsNoBorrow : Prop :=
  ∀ (x y : Reg) (s : State),
    decodeWord (formatXYN 0x8 x y 5) = .subReg x y ∧ decodeWord (formatXYN 0x8 x y 7) = .subnReg x y ∧
    (∃ t, exec (.subReg x y) s = .next t ∧ s.onlyRegisters t ∧ s.registersBut [x, VF] t ∧
      t.reg VF = (if (s.reg x).toNat ≥ (s.reg y).toNat then 1 else 0) ∧
      (x ≠ VF → ((t.reg x).toNat : Int) = ((s.reg x).toNat - (s.reg y).toNat : Int) % 256)) ∧
    (∃ t, exec (.subnReg x y) s = .next t ∧ s.onlyRegisters t ∧ s.registersBut [x, VF] t ∧
      t.reg VF = (if (s.reg y).toNat ≥ (s.reg x).toNat then 1 else 0) ∧
      (x ≠ VF → ((t.reg x).toNat : Int) = ((s.reg y).toNat - (s.reg x).toNat : Int) % 256))

/-- SHR and SHL move the source, `V[x]` or `V[y]` as SHIFT_SRC says, by one place; VF is the bit shifted
out, written last (R100, R102, R91, R4; the parameter SHIFT_SRC is the spec's decision D2, that the flag is
written last its decision D3). -/
def Obligations.ShiftsMoveOnePlace : Prop :=
  ∀ (x y : Reg) (s : State) (v : Byte),
    ((s.cfg.shiftSrc = .vx ∧ v = s.reg x) ∨ (s.cfg.shiftSrc = .vy ∧ v = s.reg y)) →
    decodeWord (formatXYN 0x8 x y 6) = .shr x y ∧ decodeWord (formatXYN 0x8 x y 0xE) = .shl x y ∧
    (∃ t, exec (.shr x y) s = .next t ∧ s.onlyRegisters t ∧ s.registersBut [x, VF] t ∧
      (t.reg VF).toNat = v.toNat % 2 ∧ (x ≠ VF → (t.reg x).toNat = v.toNat / 2)) ∧
    (∃ t, exec (.shl x y) s = .next t ∧ s.onlyRegisters t ∧ s.registersBut [x, VF] t ∧
      (t.reg VF).toNat = v.toNat / 128 ∧ (x ≠ VF → (t.reg x).toNat = 2 * v.toNat % 256))

/-- RND: the random draw of the step, whatever it is, masked by the immediate (R104). -/
def Obligations.RandomByteIsMasked : Prop :=
  ∀ (x : Reg) (kk : Byte) (s : State),
    decodeWord (formatXK 0xC x kk) = .rnd x kk ∧
    ∃ t, exec (.rnd x kk) s = .next t ∧ s.onlyRegisters t ∧ s.registersBut [x] t ∧
      ∀ b, b < 8 → (t.reg x).getLsbD b = (s.now.rnd.getLsbD b && kk.getLsbD b)

/-- VF changes only in the six flag-writing instructions, which leave 0 or 1 in it, and in the
instructions that name it as their destination (R11). -/
def Obligations.FlagRegisterChangesOnlyByItsWriters : Prop :=
  ∀ (i : Instr) (s t : State), exec i s = .next t →
    (t.reg VF ≠ s.reg VF → i.writesFlag = true ∨ i.namesVF = true) ∧
    (i.writesFlag = true → t.fault.valid = false → t.reg VF = 0 ∨ t.reg VF = 1)

/-! ### Index register and memory -/

/-- LD I and ADD I: the value of `I`, its 16-bit wrap, no flag, and nothing else changed but `pc` (R110,
R111). -/
def Obligations.IndexLoadAndAdd : Prop :=
  ∀ (nnn : Addr12) (x : Reg) (s : State),
    decodeWord (formatA 0xA nnn) = .ldI nnn ∧ decodeWord (formatXK 0xF x 0x1E) = .addI x ∧
    (∃ t, exec (.ldI nnn) s = .next t ∧ t = { s with I := t.I, pc := s.pc + 2 } ∧ t.I.toNat = nnn.toNat) ∧
    (∃ t, exec (.addI x) s = .next t ∧ t = { s with I := t.I, pc := s.pc + 2 } ∧
      t.I.toNat = (s.I.toNat + (s.reg x).toNat) % 65536)

/-- LD F: `I` becomes five times the whole register value plus 0x050, and nothing else changes but `pc`
(R112; that the value is not masked is the spec's decision D17). -/
def Obligations.FontAddress : Prop :=
  ∀ (x : Reg) (s : State),
    decodeWord (formatXK 0xF x 0x29) = .ldF x ∧
    ∃ t, exec (.ldF x) s = .next t ∧ t = { s with I := t.I, pc := s.pc + 2 } ∧
      t.I.toNat = (s.reg x).toNat * 5 + 0x050

/-- LD B: the three decimal digits at `I`, `I+1`, `I+2`; every other byte, and everything else but `pc`, is
unchanged (R113; that `I` stays is the spec's decision D4). -/
def Obligations.DecimalDigitsAreStored : Prop :=
  ∀ (x : Reg) (s : State), s.mem.wf s.cfg = true →
    decodeWord (formatXK 0xF x 0x33) = .ldB x ∧
    (s.I.toNat + 2 ≤ 0xFFF → ∃ t, exec (.ldB x) s = .next t ∧ t = { s with mem := t.mem, pc := s.pc + 2 } ∧
      (t.readByte s.I.toNat).toNat = (s.reg x).toNat / 100 ∧
      (t.readByte (s.I.toNat + 1)).toNat = (s.reg x).toNat / 10 % 10 ∧
      (t.readByte (s.I.toNat + 2)).toNat = (s.reg x).toNat % 10 ∧
      s.bytesBut s.I.toNat 3 t)

/-- LD [I], Vx: `V[i]` at `I + i` for `i` from 0 to `x`; every other byte, `I`, and everything else but
`pc`, is unchanged (R114; that `I` stays is the spec's decision D4). -/
def Obligations.RegistersAreDumped : Prop :=
  ∀ (x : Reg) (s : State), s.mem.wf s.cfg = true →
    decodeWord (formatXK 0xF x 0x55) = .dumpRegs x ∧
    (s.I.toNat + x.val ≤ 0xFFF → ∃ t, exec (.dumpRegs x) s = .next t ∧
      t = { s with mem := t.mem, pc := s.pc + 2 } ∧
      (∀ i : Reg, i ≤ x → t.readByte (s.I.toNat + i.val) = s.reg i) ∧ s.bytesBut s.I.toNat (x.val + 1) t)

/-- LD Vx, [I]: `V[i]` from `I + i` for `i` from 0 to `x`; the registers above `x`, `I`, and everything
else but `pc`, are unchanged (R115; that `I` stays is the spec's decision D4). -/
def Obligations.RegistersAreLoaded : Prop :=
  ∀ (x : Reg) (s : State),
    decodeWord (formatXK 0xF x 0x65) = .loadRegs x ∧
    (s.I.toNat + x.val ≤ 0xFFF → ∃ t, exec (.loadRegs x) s = .next t ∧ s.onlyRegisters t ∧
      (∀ i : Reg, i ≤ x → t.reg i = s.readByte (s.I.toNat + i.val)) ∧
      (∀ i : Reg, x < i → t.reg i = s.reg i))

/-- DATA_OOB: each of the four instructions that access memory through `I`, when its range does not lie
inside 0x000 to 0xFFF, writes the latch and nothing else (R165, R38; that the access is fatal is the spec's
decision D5). -/
def Obligations.DataOutsideMemoryIsFatal : Prop :=
  ∀ (x y : Reg) (n : Fin 16) (s : State),
    (0xFFF < s.I.toNat + 2 → exec (.ldB x) s =
      .next { s with fault := { valid := true, cause := 4, addr := s.pc, opcode := formatXK 0xF x 0x33 } }) ∧
    (0xFFF < s.I.toNat + x.val → exec (.dumpRegs x) s =
      .next { s with fault := { valid := true, cause := 4, addr := s.pc, opcode := formatXK 0xF x 0x55 } }) ∧
    (0xFFF < s.I.toNat + x.val → exec (.loadRegs x) s =
      .next { s with fault := { valid := true, cause := 4, addr := s.pc, opcode := formatXK 0xF x 0x65 } }) ∧
    (0 < n.val → 0xFFF < s.I.toNat + n.val - 1 → exec (.drw x y n) s =
      .next { s with fault := { valid := true, cause := 4, addr := s.pc, opcode := formatXYN 0xD x y n } })

/-- A dump followed by a load with the same `x` and `I` leaves every register, and all else but memory and
`pc`, as it was (R114, R115; decision D4). -/
def Obligations.DumpThenLoadRestoresTheRegisters : Prop :=
  ∀ (x : Reg) (s : State), s.mem.wf s.cfg = true → s.I.toNat + x.val ≤ 0xFFF →
    ∃ t, execAll s [.dumpRegs x, .loadRegs x] = .next t ∧ t = { s with mem := t.mem, pc := s.pc + 4 }

/-- A store is seen by the very next fetch: with `I` at the address of the next instruction and `x` at
least 1, LD [I],Vx makes the word of V0 and V1 the next opcode, V0 its high byte (R42, R33). -/
def Obligations.StoreIsSeenByTheNextFetch : Prop :=
  ∀ (x : Reg) (s t : State), s.mem.wf s.cfg = true → 1 ≤ x.val → s.I = s.pc + 2 →
    s.I.toNat + x.val ≤ 0xFFF → exec (.dumpRegs x) s = .next t →
    ∃ op, t.fetch = some op ∧ op.toNat = (s.reg 0).toNat * 256 + (s.reg 1).toNat

/-- The writers of each piece of state: memory changes only by LD B and LD [I]; the framebuffer and the
pulse only by CLS and DRW; the stack and `sp` only by CALL and RET; `I` only by LD I, ADD I, LD F; DT only
by LD DT; ST only by LD ST; the parameters, the reset port and the inputs by no instruction (R12, R15 to R19,
R136). That LD [I] and LD Vx,[I] leave `I` is the spec's decision D4 (log entry 13, unsafe); the pulse as a
field is the model's (log entry 11). -/
def Obligations.EachStateHasItsOwnWriters : Prop :=
  ∀ (i : Instr) (s t : State), exec i s = .next t →
    (t.mem ≠ s.mem → (∃ x, i = .ldB x) ∨ (∃ x, i = .dumpRegs x)) ∧
    ((t.fb ≠ s.fb ∨ t.fbPush ≠ s.fbPush) → i = .cls ∨ (∃ x y n, i = .drw x y n)) ∧
    ((t.stack ≠ s.stack ∨ t.sp ≠ s.sp) → i = .ret ∨ (∃ nnn, i = .call nnn)) ∧
    (t.I ≠ s.I → (∃ nnn, i = .ldI nnn) ∨ (∃ x, i = .addI x) ∨ (∃ x, i = .ldF x)) ∧
    (t.DT ≠ s.DT → ∃ x, i = .ldDTVx x) ∧ (t.ST ≠ s.ST → ∃ x, i = .ldSTVx x) ∧
    t.cfg = s.cfg ∧ t.rst = s.rst ∧ t.now = s.now ∧ t.later = s.later ∧ t.seq = s.seq

/-! ### Display -/

/-- CLS: every pixel unset, the Display Sink invoked, no register written, nothing else changed but `pc`
(R120). That an already clear screen still invokes the sink is the spec's decision D22 (conflict C7, log entry
13); the pulse as a field is the model's (log entry 11). -/
def Obligations.ClearScreenClearsEveryPixel : Prop :=
  decodeWord 0x00E0 = .cls ∧
  ∀ s : State, ∃ t, exec .cls s = .next t ∧ t = { s with fb := t.fb, fbPush := true, pc := s.pc + 2 } ∧
    t.fb.wf s.cfg.fbWidth s.cfg.fbHeight ∧
    ∀ r c, r < s.cfg.fbHeight → c < s.cfg.fbWidth → t.fb.get r c = false

/-- DRW inside memory, on a grid of any size: it completes, invokes the Display Sink, leaves 0 or 1 in VF,
changes no other register and nothing else but the framebuffer and `pc`; with `n = 0` no pixel changes and
VF is 0, whatever `I` is (R121, R125). -/
def Obligations.DrawCompletesWithItsFrame : Prop :=
  ∀ (x y : Reg) (n : Fin 16) (s : State),
    decodeWord (formatXYN 0xD x y n) = .drw x y n ∧
    (n.val = 0 ∨ s.I.toNat + n.val - 1 ≤ 0xFFF →
      ∃ t, exec (.drw x y n) s = .next t ∧
        t = { s with fb := t.fb, V := t.V, fbPush := true, pc := s.pc + 2 } ∧
        s.registersBut [VF] t ∧ (t.reg VF = 0 ∨ t.reg VF = 1) ∧
        (n.val = 0 → t.fb = s.fb ∧ t.reg VF = 0))

/-- DRW pixel by pixel, on a grid of at least 8 columns and 15 rows, where no two sprite bits share a
pixel (R122): each pixel under a set bit of the sprite is flipped, every other one kept; VF is 1 exactly
when a pixel that was set was under a set bit, that is, went from set to unset (R121 to R123). -/
def Obligations.DrawFlipsThePixelsUnderTheSprite : Prop :=
  ∀ (x y : Reg) (n : Fin 16) (s t : State), 8 ≤ s.cfg.fbWidth → 15 ≤ s.cfg.fbHeight →
    s.fb.wf s.cfg.fbWidth s.cfg.fbHeight → (n.val = 0 ∨ s.I.toNat + n.val - 1 ≤ 0xFFF) →
    exec (.drw x y n) s = .next t →
    t.fb.wf s.cfg.fbWidth s.cfg.fbHeight ∧
    (∀ r c, r < s.cfg.fbHeight → c < s.cfg.fbWidth →
      (t.fb.get r c = s.fb.get r c ↔ ¬ s.spriteCovers x y n.val r c)) ∧
    (t.reg VF = 1 ↔ ∃ r c, s.spriteCovers x y n.val r c ∧ s.fb.get r c = true)

/-- Drawing the same sprite twice restores the framebuffer, on a grid of any size; and on a grid of at
least 8 columns and 15 rows the second draw's flag is 1 exactly when some set bit of the sprite lay over a
pixel that was unset before the first draw (R124). -/
def Obligations.DrawTwiceRestoresTheFramebuffer : Prop :=
  ∀ (x y : Reg) (n : Fin 16) (s : State), s.cfg.wf → s.fb.wf s.cfg.fbWidth s.cfg.fbHeight → x ≠ VF → y ≠ VF →
    (n.val = 0 ∨ s.I.toNat + n.val - 1 ≤ 0xFFF) →
    ∃ t, execAll s [.drw x y n, .drw x y n] = .next t ∧ t.fb = s.fb ∧
      (8 ≤ s.cfg.fbWidth → 15 ≤ s.cfg.fbHeight →
        (t.reg VF = 1 ↔ ∃ r c, s.spriteCovers x y n.val r c ∧ s.fb.get r c = false))

/-- The Display Sink is invoked by each completed CLS and DRW and by nothing else: from a state with the
pulse down, it is up afterwards exactly then (R125). -/
def Obligations.DisplaySinkIsInvokedByClearAndDraw : Prop :=
  ∀ (i : Instr) (s t : State), s.fbPush = false → s.running → exec i s = .next t →
    (t.fbPush = true ↔ (i = .cls ∨ ∃ x y n, i = .drw x y n) ∧ t.fault.valid = false)

/-! ### Keypad and timers -/

/-- SKP and SKNP: the key numbered by the low nibble of `V[x]` decides; nothing but `pc` changes (R130,
R131). -/
def Obligations.KeySkips : Prop :=
  ∀ (x : Reg) (s : State) (k : Nat), k = (s.reg x).toNat % 16 →
    decodeWord (formatXK 0xE x 0x9E) = .skp x ∧ decodeWord (formatXK 0xE x 0xA1) = .sknp x ∧
    (s.now.keys.getLsbD k = true → exec (.skp x) s = .next { s with pc := s.pc + 4 } ∧
                                   exec (.sknp x) s = .next { s with pc := s.pc + 2 }) ∧
    (s.now.keys.getLsbD k = false → exec (.skp x) s = .next { s with pc := s.pc + 2 } ∧
                                    exec (.sknp x) s = .next { s with pc := s.pc + 4 })

/-- LD Vx, K: with no key held it holds, writing nothing; otherwise it takes the lowest-numbered key held
(R132, R146; that the first key is the lowest-numbered one is the spec's decision D10). -/
def Obligations.WaitForKey : Prop :=
  ∀ (x : Reg) (s : State),
    decodeWord (formatXK 0xF x 0x0A) = .ldVxK x ∧
    (s.now.keys = 0 → exec (.ldVxK x) s = .next s) ∧
    (s.now.keys ≠ 0 → ∃ t k, exec (.ldVxK x) s = .next t ∧ s.onlyRegisters t ∧ s.registersBut [x] t ∧
      k < 16 ∧ s.now.keys.getLsbD k = true ∧ (∀ j, j < k → s.now.keys.getLsbD j = false) ∧
      (t.reg x).toNat = k)

/-- LD Vx, DT, LD DT, Vx and LD ST, Vx copy the whole byte and change nothing else but `pc` (R133 to
R135). -/
def Obligations.TimerCopies : Prop :=
  ∀ (x : Reg) (s : State),
    decodeWord (formatXK 0xF x 0x07) = .ldVxDT x ∧ decodeWord (formatXK 0xF x 0x15) = .ldDTVx x ∧
    decodeWord (formatXK 0xF x 0x18) = .ldSTVx x ∧
    (∃ t, exec (.ldVxDT x) s = .next t ∧ s.onlyRegisters t ∧ s.registersBut [x] t ∧ t.reg x = s.DT) ∧
    exec (.ldDTVx x) s = .next { s with DT := s.reg x, pc := s.pc + 2 } ∧
    exec (.ldSTVx x) s = .next { s with ST := s.reg x, pc := s.pc + 2 }

/-- A tick decrements each timer, clamped at zero, and touches nothing else; `n` ticks, one after the
other or in a burst, take a timer to `max(v - n, 0)` (R180 for one tick; that a burst of `n` ticks is `n` ticks
is read from R148 and R181, log entry 8). -/
def Obligations.TicksCountDownToZero : Prop :=
  (∀ s : State, s.tick = { s with DT := s.tick.DT, ST := s.tick.ST } ∧
    (s.DT ≠ 0 → s.tick.DT.toNat + 1 = s.DT.toNat) ∧ (s.DT = 0 → s.tick.DT = 0) ∧
    (s.ST ≠ 0 → s.tick.ST.toNat + 1 = s.ST.toNat) ∧ (s.ST = 0 → s.tick.ST = 0)) ∧
  (∀ (s : State) (n : Nat), s.ticks n = State.tick^[n] s ∧
    (s.ticks n).DT.toNat = s.DT.toNat - n ∧ (s.ticks n).ST.toNat = s.ST.toNat - n)

/-! ### Inputs -/

/-- Only SKP, SKNP and LD Vx,K look at the key lines: any other instruction does the same whatever they
are (R145). -/
def Obligations.OnlyKeyInstructionsLookAtTheKeys : Prop :=
  ∀ (i : Instr) (s : State) (keys : Word), i.readsKeys = false →
    exec i { s with now := { s.now with keys := keys } } =
      Result.map (fun t => { t with now := { t.now with keys := keys } }) (exec i s)

/-- Only RND consumes the random draw (R147). -/
def Obligations.OnlyRandomLooksAtTheDraw : Prop :=
  ∀ (i : Instr) (s : State) (rnd : Byte), i.readsRnd = false →
    exec i { s with now := { s.now with rnd := rnd } } =
      Result.map (fun t => { t with now := { t.now with rnd := rnd } }) (exec i s)

/-- Nothing observes the sound timer: two states that differ only in it take steps to states that differ
at most in it (R18). -/
def Obligations.NothingObservesTheSoundTimer : Prop :=
  ∀ (s t : State) (v : Byte), step s = .next t →
    ∃ t', step { s with ST := v } = .next t' ∧ t' = { t with ST := t'.ST }

/-- The inputs given for later steps arrive one a step, in order; after them come the free ones (the
model's rendering of R182, R145 and R147, log entry 3). -/
def Obligations.InputsArriveInOrder : Prop :=
  ∀ s t : State, s.noReset → step s = .next t →
    (∀ i rest, s.later = i :: rest → t.now = i ∧ t.later = rest ∧ t.seq = s.seq) ∧
    (s.later = [] → t.now = freeInput s.seq ∧ t.later = [] ∧ t.seq = s.seq + 1)

/-! ### Reset -/

/-- Reset with a ROM of at most 0xE00 bytes leaves the state of R190, whatever the state before was. (The
values of `I`, the framebuffer, the latch and the memory outside font and program are the spec's decisions
D14 and D7; the pulse is the model's, log entry 11.) -/
def Obligations.ResetBuildsTheState : Prop :=
  ∀ (s : State) (rom : List Byte), rom.length ≤ 0xE00 →
    let t := s.resetWith rom
    (∀ r, t.reg r = 0x00) ∧ t.I = 0x0000 ∧ t.pc = 0x0200 ∧ t.sp = 0 ∧ (∀ k, t.stackAt k = 0x0000) ∧
    t.DT = 0x00 ∧ t.ST = 0x00 ∧ t.fault = { valid := false, cause := 0, addr := 0, opcode := 0 } ∧
    t.fbPush = false ∧ t.fb.wf s.cfg.fbWidth s.cfg.fbHeight ∧
    (∀ r c, r < s.cfg.fbHeight → c < s.cfg.fbWidth → t.fb.get r c = false) ∧
    (∀ k : Fin 80, t.readByte (0x050 + k.val) = s.cfg.fontRom[k]) ∧
    (∀ k, (h : k < rom.length) → t.readByte (0x200 + k) = rom[k]) ∧
    (∀ a, a ≤ 0xFFF → (a < 0x050 ∨ 0x0A0 ≤ a) → (a < 0x200 ∨ 0x200 + rom.length ≤ a) →
      t.readByte a = s.cfg.memFill)

/-- A ROM of more than 0xE00 bytes: reset ends in ROM_TOO_LARGE, the other registers have their reset
values, and the engine never takes a step (R169; the spec's decision D21). -/
def Obligations.TooLargeRomIsFatal : Prop :=
  ∀ (s : State) (rom : List Byte), 0xE00 < rom.length →
    let t := s.resetWith rom
    t.fault = { valid := true, cause := 5, addr := 0, opcode := 0 } ∧ engineStep t = .next t ∧
    (∀ r, t.reg r = 0x00) ∧ t.I = 0x0000 ∧ t.pc = 0x0200 ∧ t.sp = 0 ∧ (∀ k, t.stackAt k = 0x0000) ∧
    t.DT = 0x00 ∧ t.ST = 0x00 ∧
    (∀ r c, r < s.cfg.fbHeight → c < s.cfg.fbWidth → t.fb.get r c = false) ∧
    (∀ k : Fin 80, t.readByte (0x050 + k.val) = s.cfg.fontRom[k]) ∧
    (∀ a, a < 0x200 → (a < 0x050 ∨ 0x0A0 ≤ a) → t.readByte a = s.cfg.memFill)

/-! ### The invariant -/

/-- The invariant holds right after reset. -/
def Obligations.InvariantHoldsAtReset : Prop := State.reset.Inv

/-- The invariant holds after a reset with any ROM, whatever the state before was, and already while `rst` is
asserted (R190, R169; that the block is held in the reset state then is the model's, log entry 9). -/
def Obligations.InvariantHoldsAfterEveryReset : Prop :=
  ∀ (s : State) (rom : List Byte), (s.resetWith rom).Inv ∧ (s.assertReset rom).Inv

/-- Every step keeps the invariant: memory stays canonical and inside its 4096 addresses, the grid keeps
its size, `pc` stays at or below 0x10FE and every return address at or below 0x1000, `stack[15]` is never
written, the latch names the instruction `pc` points to (R83, R16, R166, R23), and while `rst` is asserted the
block is held in the reset state (R141; how it is held is the model's, log entry 9). -/
def Obligations.EveryStepKeepsTheInvariant : Prop :=
  ∀ s t : State, s.Inv → step s = .next t → t.Inv

/-! ### Reset as an input -/

/-- A reset before a step, from any state, a faulted one included: whatever came before `rst` went up is
gone, and the machine goes on from the reset state of that ROM (R192, R151; `q` counts the free values taken,
the model's). With `rst` up and down again before the step and a ROM that fits, the step runs the first
instruction of that ROM (R190, R191). While `rst` is asserted a step request does nothing (R142). The port
and reset at any time are the spec's decision D13; reset as two events of the list, and the state held
between them, are the model's (log entry 9). -/
def Obligations.ResetBeforeAStepRebuildsTheState : Prop :=
  (∀ (s : State) (es rest : List HostEvent) (rom : List Byte), s.now.before = es ++ .assertReset rom :: rest →
    ∃ q, s.beginStep = ((({ s with seq := q } : State).assertReset rom).hostEvents rest).clearEvents) ∧
  (∀ (s : State) (es : List HostEvent) (rom : List Byte),
    s.now.before = es ++ [.assertReset rom, .releaseReset] →
    ∃ q, s.beginStep = (({ s with seq := q } : State).resetWith rom).clearEvents) ∧
  (∀ (s : State) (es : List HostEvent) (a b : Byte) (rom : List Byte),
    s.now.before = es ++ [.assertReset (a :: b :: rom), .releaseReset] → (a :: b :: rom).length ≤ 0xE00 →
    step s = Result.map State.nextInput (exec (decodeWord (opcodeOf a b)) s.beginStep)) ∧
  (∀ s : State, s.beginStep.rst = true → step s = .next s.beginStep.nextInput)
end

