-- ==== Sys2Proof/Laws/Frame.lean ====
section
/-! SUPPORT. The framebuffer: what a toggle and a sprite do to each pixel, and that the grid keeps its
size (10_state.md R19, 43_display.md R121 to R124). -/

namespace Sys2Proof.Machine

/-! ### The size of the grid -/

theorem Frame.wf_blank (w h : Nat) : (Frame.blank w h).wf w h := by
  refine ⟨by simp [Frame.blank], fun row hrow => ?_⟩
  rw [List.eq_of_mem_replicate hrow, List.length_replicate]

theorem Frame.wf_toggle {w h : Nat} {f : Frame} (hf : f.wf w h) (r c : Nat) : (f.toggle r c).wf w h := by
  refine ⟨by simp [Frame.toggle, hf.1], fun row hrow => ?_⟩
  obtain ⟨i, hi, rfl⟩ := List.getElem_of_mem hrow
  simp only [Frame.toggle, List.getElem_modify]
  split
  · rw [List.length_modify]; exact hf.2 _ (List.getElem_mem _)
  · exact hf.2 _ (List.getElem_mem _)

theorem Frame.wf_toggleAll {w h : Nat} :
    ∀ (ps : List (Nat × Nat)) {f : Frame} (hit : Bool), f.wf w h → (f.toggleAll hit ps).1.wf w h
  | [], _, _, hf => hf
  | (r, c) :: ps, _, _, hf => Frame.wf_toggleAll ps _ (Frame.wf_toggle hf r c)

theorem Frame.wf_drawSprite {w h : Nat} {f : Frame} (hf : f.wf w h) (x0 y0 : Nat) (sprite : List Byte) :
    (drawSprite w h x0 y0 sprite f).1.wf w h :=
  Frame.wf_toggleAll _ false hf

/-! ### Pixels -/

@[simp] theorem Frame.get_blank (w h r c : Nat) : (Frame.blank w h).get r c = false := by
  unfold Frame.get Frame.blank
  simp only [List.getD_eq_getElem?_getD, List.getElem?_replicate]
  by_cases hr : r < h <;> by_cases hc : c < w <;> simp [hr, hc]

/-- A toggle flips the pixel named, if it is in the grid, and no other (R121). -/
theorem Frame.get_toggle {w h : Nat} {f : Frame} (hf : f.wf w h) {r c : Nat} (hr : r < h) (hc : c < w)
    (r' c' : Nat) :
    (f.toggle r c).get r' c' = if r' = r ∧ c' = c then !f.get r c else f.get r' c' := by
  have hr' : r < f.length := by rw [hf.1]; exact hr
  have hlen : (f[r]).length = w := hf.2 _ (List.getElem_mem _)
  simp only [Frame.get, Frame.toggle, List.getD_eq_getElem?_getD, List.getElem?_modify]
  by_cases e : r = r'
  · subst e
    have hget : f[r]? = some f[r] := List.getElem?_eq_getElem hr'
    simp only [hget, if_true, Option.getD_some, true_and]
    by_cases e' : c = c'
    · subst e'
      have : (f[r])[c]? = some (f[r])[c] := List.getElem?_eq_getElem (by rw [hlen]; exact hc)
      simp [this]
    · simp [e', Ne.symm e']
  · have : ¬ (r' = r ∧ c' = c) := fun q => e q.1.symm
    simp [e, this]

/-- Two grids of the same size with the same pixels are the same grid. -/
theorem Frame.ext_get {w h : Nat} {f g : Frame} (hf : f.wf w h) (hg : g.wf w h)
    (hget : ∀ r c, r < h → c < w → f.get r c = g.get r c) : f = g := by
  refine List.ext_getElem (by rw [hf.1, hg.1]) fun r hr hr' => ?_
  have lf : (f[r]).length = w := hf.2 _ (List.getElem_mem _)
  have lg : (g[r]).length = w := hg.2 _ (List.getElem_mem _)
  refine List.ext_getElem (by rw [lf, lg]) fun c hc hc' => ?_
  have := hget r c (by rw [← hf.1]; exact hr) (by rw [← lf]; exact hc)
  simpa [Frame.get, List.getD_eq_getElem?_getD, hr, hr', hc, hc'] using this

/-! ### Runs of toggles -/

/-- Whether the pixel is toggled an odd number of times by a list of toggles. -/
def toggledOdd (r c : Nat) : List (Nat × Nat) → Bool
  | [] => false
  | p :: ps => (decide (p = (r, c))) ^^ toggledOdd r c ps

/-- After a run of toggles a pixel is its old value, flipped once for every time it is listed. -/
theorem Frame.get_toggleAll {w h : Nat} (r c : Nat) :
    ∀ (ps : List (Nat × Nat)) {f : Frame} (hit : Bool), f.wf w h → (∀ p ∈ ps, p.1 < h ∧ p.2 < w) →
      (f.toggleAll hit ps).1.get r c = (f.get r c ^^ toggledOdd r c ps)
  | [], _, _, _, _ => by simp [Frame.toggleAll, toggledOdd]
  | (r', c') :: ps, f, hit, hf, hin => by
    have hp := hin (r', c') (List.mem_cons_self ..)
    rw [Frame.toggleAll, Frame.get_toggleAll r c ps _ (Frame.wf_toggle hf r' c')
      (fun p hm => hin p (List.mem_cons_of_mem _ hm)), Frame.get_toggle hf hp.1 hp.2, toggledOdd]
    by_cases e : r = r' ∧ c = c'
    · obtain ⟨rfl, rfl⟩ := e
      cases f.get r c <;> simp
    · have : ¬ ((r', c') = (r, c)) := fun q => e ⟨(Prod.mk.inj q).1.symm, (Prod.mk.inj q).2.symm⟩
      simp [e, this]

/-- With no pixel listed twice, the flag says whether one of the listed pixels was set before (R123). -/
theorem Frame.hit_toggleAll {w h : Nat} :
    ∀ (ps : List (Nat × Nat)) {f : Frame} (hit : Bool), f.wf w h → (∀ p ∈ ps, p.1 < h ∧ p.2 < w) →
      ps.Nodup → (f.toggleAll hit ps).2 = (hit || ps.any fun p => f.get p.1 p.2)
  | [], _, _, _, _, _ => by simp [Frame.toggleAll]
  | (r, c) :: ps, f, hit, hf, hin, hnd => by
    have hp := hin (r, c) (List.mem_cons_self ..)
    have hnot : (r, c) ∉ ps := (List.nodup_cons.mp hnd).1
    rw [Frame.toggleAll, Frame.hit_toggleAll ps _ (Frame.wf_toggle hf r c)
      (fun p hm => hin p (List.mem_cons_of_mem _ hm)) (List.nodup_cons.mp hnd).2]
    have hany : (ps.any fun p => (f.toggle r c).get p.1 p.2) = ps.any fun p => f.get p.1 p.2 := by
      rw [Bool.eq_iff_iff, List.any_eq_true, List.any_eq_true]
      refine exists_congr fun p => and_congr_right fun hm => ?_
      have : ¬ (p.1 = r ∧ p.2 = c) := fun q => hnot (by rw [← q.1, ← q.2]; exact hm)
      rw [Frame.get_toggle hf hp.1 hp.2, if_neg this]
    rw [hany, List.any_cons, Bool.or_assoc]

/-! ### The pixels of a sprite -/

theorem mem_spriteRowPixels {w h x0 y0 row : Nat} {b : Byte} {p : Nat × Nat} :
    p ∈ spriteRowPixels w h x0 y0 row b ↔
      ∃ col, col < 8 ∧ b.getLsbD (7 - col) = true ∧ p = ((y0 + row) % h, (x0 + col) % w) := by
  simp only [spriteRowPixels, List.mem_filterMap, List.mem_range, Option.ite_none_right_eq_some,
    Option.some.injEq]
  constructor
  · rintro ⟨col, h1, h2, h3⟩; exact ⟨col, h1, h2, h3.symm⟩
  · rintro ⟨col, h1, h2, h3⟩; exact ⟨col, h1, h2, h3.symm⟩

/-- A pixel belongs to a sprite when some set bit of some row lands on it (R122). -/
theorem mem_spritePixels {w h x0 y0 : Nat} {p : Nat × Nat} :
    ∀ {bs : List Byte} {row : Nat}, p ∈ spritePixels w h x0 y0 row bs ↔
      ∃ (i : Nat) (hi : i < bs.length) (col : Nat), col < 8 ∧ (bs[i]).getLsbD (7 - col) = true ∧
        p = ((y0 + (row + i)) % h, (x0 + col) % w)
  | [], row => by simp [spritePixels]
  | b :: bs, row => by
    rw [spritePixels, List.mem_append, mem_spriteRowPixels, mem_spritePixels (bs := bs)]
    constructor
    · rintro (⟨col, h1, h2, h3⟩ | ⟨i, hi, col, h1, h2, h3⟩)
      · exact ⟨0, by simp, col, h1, by simpa using h2, by simpa using h3⟩
      · exact ⟨i + 1, by simpa using hi, col, h1, by simpa using h2, by rw [h3, Nat.add_assoc row 1 i, Nat.add_comm 1 i]⟩
    · rintro ⟨i, hi, col, h1, h2, h3⟩
      cases i with
      | zero => exact .inl ⟨col, h1, by simpa using h2, by simpa using h3⟩
      | succ i =>
        exact .inr ⟨i, by simpa using hi, col, h1, by simpa using h2,
          by rw [h3, Nat.add_assoc row 1 i, Nat.add_comm 1 i]⟩

/-- Every pixel of a sprite lies inside the grid: sprites wrap and never draw off it (R122, R43). -/
theorem spritePixels_inside {w h : Nat} (hw : 0 < w) (hh : 0 < h) (x0 y0 row : Nat) (bs : List Byte) :
    ∀ p ∈ spritePixels w h x0 y0 row bs, p.1 < h ∧ p.2 < w := by
  intro p hp
  obtain ⟨i, -, col, -, -, rfl⟩ := mem_spritePixels.mp hp
  exact ⟨Nat.mod_lt _ hh, Nat.mod_lt _ hw⟩

/-- Two offsets below the modulus that land on the same place are the same offset. -/
theorem offset_eq_of_mod_eq {a i j m : Nat} (hi : i < m) (hj : j < m) (h : (a + i) % m = (a + j) % m) :
    i = j := by
  have h' : i ≡ j [MOD m] := Nat.ModEq.add_left_cancel' a h
  rwa [Nat.ModEq, Nat.mod_eq_of_lt hi, Nat.mod_eq_of_lt hj] at h'

/-- On a grid of at least 8 columns, and of as many rows as the sprite reaches down to, no two sprite bits
share a pixel (R122). -/
theorem spritePixels_nodup {w h x0 y0 : Nat} (hw : 8 ≤ w) :
    ∀ {bs : List Byte} {row : Nat}, row + bs.length ≤ h → (spritePixels w h x0 y0 row bs).Nodup
  | [], _, _ => by simp [spritePixels]
  | b :: bs, row, hl => by
    simp only [List.length_cons] at hl
    rw [spritePixels, List.nodup_append]
    refine ⟨?_, spritePixels_nodup hw (by omega), ?_⟩
    · unfold spriteRowPixels
      rw [List.nodup_iff_pairwise_ne, List.pairwise_filterMap]
      refine (List.nodup_iff_pairwise_ne.1 (List.nodup_range (n := 8))).imp_of_mem ?_
      intro i j hi hj hij p hp q hq e
      rw [List.mem_range] at hi hj
      split at hp <;> cases hp
      split at hq <;> cases hq
      exact hij (offset_eq_of_mod_eq (by omega) (by omega) (Prod.mk.inj e).2)
    · intro p hp q hq e
      subst e
      obtain ⟨c, -, -, rfl⟩ := mem_spriteRowPixels.1 hp
      obtain ⟨i, hi, c', -, -, e⟩ := mem_spritePixels.1 hq
      have := offset_eq_of_mod_eq (i := row) (j := row + 1 + i) (by omega) (by omega) (Prod.mk.inj e).1
      omega

/-- With no pixel listed twice, a pixel is toggled an odd number of times exactly when it is listed. -/
theorem toggledOdd_iff_mem {r c : Nat} :
    ∀ {ps : List (Nat × Nat)}, ps.Nodup → (toggledOdd r c ps = true ↔ (r, c) ∈ ps)
  | [], _ => by simp [toggledOdd]
  | p :: ps, h => by
    obtain ⟨h1, h2⟩ := List.nodup_cons.1 h
    have ih := toggledOdd_iff_mem (r := r) (c := c) h2
    rw [toggledOdd, List.mem_cons]
    by_cases e : p = (r, c)
    · subst e
      have : toggledOdd r c ps = false := by rw [← Bool.not_eq_true, ih]; exact h1
      simp [this]
    · simp [e, ih, Ne.symm e]

end Sys2Proof.Machine
end

