-- ==== Sys2Proof/Laws/Memory.lean ====
section
/-! SUPPORT. Memory: read after write, writes leave every other byte alone, and every operation keeps
the canonical form (10_state.md R12, 20_memory.md R36). -/

namespace Sys2Proof.Machine

/-! ### One cell -/

theorem Memory.read_cell_append (c : Config) (a k : Nat) (b : Byte) (m : Memory)
    (h : k = a → Memory.read c k m = resetByte c k) :
    Memory.read c k (Memory.cell c a b ++ m) = if k = a then b else Memory.read c k m := by
  unfold Memory.cell
  by_cases hk : k = a
  · subst hk
    split
    · next hb => simpa [hb] using h rfl
    · simp [Memory.read]
  · split
    · simp
    · simp [Memory.read, Ne.symm hk]

/-- Below the first listed address everything reads as reset left it. -/
theorem Memory.read_below {c : Config} {lo k : Nat} :
    ∀ {m : Memory}, Memory.wfFrom c lo m = true → k < lo → Memory.read c k m = resetByte c k
  | [], _, _ => rfl
  | (a, b) :: m, h, hk => by
    simp only [Memory.wfFrom, Bool.and_eq_true, decide_eq_true_eq] at h
    obtain ⟨⟨⟨hlo, -⟩, -⟩, hm⟩ := h
    rw [Memory.read, if_neg (by omega), Memory.read_below hm (by omega)]

/-- The canonical form from a bound holds from every lower one. -/
theorem Memory.wfFrom_mono {c : Config} {lo lo' : Nat} (hle : lo ≤ lo') :
    ∀ {m : Memory}, Memory.wfFrom c lo' m = true → Memory.wfFrom c lo m = true
  | [], _ => rfl
  | (a, b) :: m, h => by
    simp only [Memory.wfFrom, Bool.and_eq_true, decide_eq_true_eq] at h ⊢
    exact ⟨⟨⟨by omega, h.1.1.2⟩, h.1.2⟩, h.2⟩

/-! ### Writing one byte -/

/-- Read after write, at the address written and at every other one (R36). -/
theorem Memory.read_write (c : Config) (a k : Nat) (b : Byte) :
    ∀ (lo : Nat) (m : Memory), Memory.wfFrom c lo m = true →
      Memory.read c k (Memory.write c a b m) = if k = a then b else Memory.read c k m
  | _, [], _ => by
    have := Memory.read_cell_append c a k b [] (fun _ => rfl)
    simpa [Memory.write] using this
  | lo, (a', b') :: m, h => by
    have h0 := h
    simp only [Memory.wfFrom, Bool.and_eq_true, decide_eq_true_eq] at h
    obtain ⟨⟨⟨hlo, -⟩, -⟩, hm⟩ := h
    rw [Memory.write]
    split
    · next hlt =>
      refine Memory.read_cell_append c a k b _ (fun e => ?_)
      subst e
      have hwf : Memory.wfFrom c a' ((a', b') :: m) = true := by
        simp only [Memory.wfFrom, Bool.and_eq_true, decide_eq_true_eq] at h0 ⊢
        exact ⟨⟨⟨le_refl _, h0.1.1.2⟩, h0.1.2⟩, h0.2⟩
      exact Memory.read_below hwf hlt
    · split
      · next hlt heq =>
        subst heq
        rw [Memory.read_cell_append c a k b m
          (fun e => by subst e; exact Memory.read_below hm (Nat.lt_succ_self _))]
        by_cases hk : k = a
        · simp [hk]
        · simp [Memory.read, hk, Ne.symm hk]
      · next hlt hne =>
        rw [Memory.read, Memory.read, Memory.read_write c a k b (a' + 1) m hm]
        by_cases hk : a' = k
        · have : ¬ k = a := by omega
          simp [hk, this]
        · simp [hk]

/-- A write keeps the canonical form from any bound that its address respects. -/
theorem Memory.wfFrom_write (c : Config) (a : Nat) (b : Byte) (ha : a < memSize) :
    ∀ (lo : Nat) (m : Memory), Memory.wfFrom c lo m = true → lo ≤ a →
      Memory.wfFrom c lo (Memory.write c a b m) = true
  | lo, [], _, hlo => by
    rw [Memory.write, Memory.cell]
    split
    · rfl
    · next hb => simp [Memory.wfFrom, hlo, ha, hb]
  | lo, (a', b') :: m, h, hlo => by
    simp only [Memory.wfFrom, Bool.and_eq_true, decide_eq_true_eq] at h
    obtain ⟨⟨⟨hlo', ha'⟩, hb'⟩, hm⟩ := h
    rw [Memory.write]
    split
    · next hlt =>
      rw [Memory.cell]
      split
      · simp [Memory.wfFrom, hlo', ha', hm]; simpa using hb'
      · next hb =>
        have : a + 1 ≤ a' := hlt
        simp [Memory.wfFrom, hlo, ha, hb, this, ha', hm]; simpa using hb'
    · split
      · next hlt heq =>
        subst heq
        rw [Memory.cell]
        split
        · exact Memory.wfFrom_mono (by omega) hm
        · next hb => simp [Memory.wfFrom, hlo, ha, hb, hm]
      · next hlt hne =>
        have : a' + 1 ≤ a := by omega
        simp [Memory.wfFrom, hlo', ha', Memory.wfFrom_write c a b ha (a' + 1) m hm this]
        simpa using hb'

theorem Memory.wf_write {c : Config} {a : Nat} (b : Byte) {m : Memory} (ha : a < memSize)
    (h : m.wf c = true) : (m.write c a b).wf c = true :=
  Memory.wfFrom_write c a b ha 0 m h (Nat.zero_le a)

/-- Read after write on a memory in canonical form (R36). -/
theorem Memory.read_write_wf {c : Config} {m : Memory} (h : m.wf c = true) (a k : Nat) (b : Byte) :
    (m.write c a b).read c k = if k = a then b else m.read c k :=
  Memory.read_write c a k b 0 m h

/-! ### Writing and reading consecutive bytes -/

theorem Memory.wf_writeBytes {c : Config} :
    ∀ {bs : List Byte} {base : Nat} {m : Memory}, base + bs.length ≤ memSize → m.wf c = true →
      (m.writeBytes c base bs).wf c = true
  | [], _, _, _, h => h
  | b :: bs, base, m, hb, h => by
    simp only [List.length_cons] at hb
    exact Memory.wf_writeBytes (bs := bs) (by omega) (Memory.wf_write b (by omega) h)

/-- What every address reads as after consecutive bytes were written: the byte written inside the range,
what it held before outside it (R34, R36). -/
theorem Memory.read_writeBytes {c : Config} (k : Nat) :
    ∀ {bs : List Byte} {base : Nat} {m : Memory}, base + bs.length ≤ memSize → m.wf c = true →
      (m.writeBytes c base bs).read c k =
        if h : base ≤ k ∧ k - base < bs.length then bs[k - base]'h.2 else m.read c k
  | [], _, _, _, _ => by simp [Memory.writeBytes]
  | b :: bs, base, m, hb, h => by
    simp only [List.length_cons] at hb
    rw [Memory.writeBytes,
      Memory.read_writeBytes k (bs := bs) (by omega) (Memory.wf_write b (by omega) h)]
    by_cases hin : base + 1 ≤ k ∧ k - (base + 1) < bs.length
    · have hin' : base ≤ k ∧ k - base < (b :: bs).length := by
        simp only [List.length_cons]; omega
      rw [dif_pos hin, dif_pos hin']
      have : k - base = (k - (base + 1)) + 1 := by omega
      simp [this]
    · rw [dif_neg hin, Memory.read_write_wf h]
      by_cases hk : k = base
      · subst hk
        simp
      · have hout : ¬ (base ≤ k ∧ k - base < (b :: bs).length) := by
          simp only [List.length_cons]; omega
        rw [dif_neg hout, if_neg hk]

/-- Outside the range written every byte reads as before. -/
theorem Memory.read_writeBytes_outside {c : Config} {bs : List Byte} {base : Nat} {m : Memory} {k : Nat}
    (hb : base + bs.length ≤ memSize) (h : m.wf c = true) (hk : k < base ∨ base + bs.length ≤ k) :
    (m.writeBytes c base bs).read c k = m.read c k := by
  rw [Memory.read_writeBytes k hb h, dif_neg (by omega)]

@[simp] theorem Memory.readBytes_length (c : Config) (m : Memory) :
    ∀ (base len : Nat), (m.readBytes c base len).length = len
  | _, 0 => rfl
  | base, len + 1 => by simp [Memory.readBytes, Memory.readBytes_length c m (base + 1) len]

/-- Place `i` of consecutive bytes read is the byte at `base + i` (R34). -/
theorem Memory.readBytes_getElem? (c : Config) (m : Memory) :
    ∀ (len base i : Nat), i < len → (m.readBytes c base len)[i]? = some (m.read c (base + i))
  | len + 1, base, 0, _ => by simp [Memory.readBytes]
  | len + 1, base, i + 1, h => by
    have := Memory.readBytes_getElem? c m len (base + 1) i (by omega)
    simpa [Memory.readBytes, Nat.add_assoc, Nat.add_comm 1 i] using this

/-! ### The image a reset loads -/

theorem Memory.wfFrom_image {c : Config} :
    ∀ {bs : List Byte} {base : Nat}, base + bs.length ≤ memSize →
      Memory.wfFrom c base (Memory.image c base bs) = true
  | [], _, _ => rfl
  | b :: bs, base, hb => by
    simp only [List.length_cons] at hb
    have ih := Memory.wfFrom_image (c := c) (bs := bs) (base := base + 1) (by omega)
    rw [Memory.image, Memory.cell]
    split
    · exact Memory.wfFrom_mono (by omega) ih
    · next hne =>
      have : base < memSize := by omega
      simp [Memory.wfFrom, this, hne, ih]

theorem Memory.wf_image {c : Config} {bs : List Byte} {base : Nat} (hb : base + bs.length ≤ memSize) :
    (Memory.image c base bs).wf c = true :=
  Memory.wfFrom_mono (Nat.zero_le base) (Memory.wfFrom_image hb)

/-- What memory holds after a load: the image in its range, the reset contents elsewhere (R12). -/
theorem Memory.read_image {c : Config} (k : Nat) :
    ∀ {bs : List Byte} {base : Nat}, base + bs.length ≤ memSize →
      (Memory.image c base bs).read c k =
        if h : base ≤ k ∧ k - base < bs.length then bs[k - base]'h.2 else resetByte c k
  | [], _, _ => by simp [Memory.image, Memory.read]
  | b :: bs, base, hb => by
    simp only [List.length_cons] at hb
    have hwf := Memory.wfFrom_image (c := c) (bs := bs) (base := base + 1) (by omega)
    rw [Memory.image, Memory.read_cell_append c base k b _
      (fun e => by subst e; exact Memory.read_below hwf (Nat.lt_succ_self _)),
      Memory.read_image k (bs := bs) (by omega)]
    by_cases hk : k = base
    · subst hk
      simp
    · by_cases hin : base + 1 ≤ k ∧ k - (base + 1) < bs.length
      · have hin' : base ≤ k ∧ k - base < (b :: bs).length := by
          simp only [List.length_cons]; omega
        have : k - base = (k - (base + 1)) + 1 := by omega
        rw [if_neg hk, dif_pos hin, dif_pos hin']
        simp [this]
      · have hout : ¬ (base ≤ k ∧ k - base < (b :: bs).length) := by
          simp only [List.length_cons]; omega
        rw [if_neg hk, dif_neg hin, dif_neg hout]

end Sys2Proof.Machine
end

