-- ==== Sys2Proof/Laws/State.lean ====
section
/-! SUPPORT. What each named update of the state does to each field, and to what the accessors `reg`,
`stackAt` and `readByte` answer: one lemma each, true by rfl, so that no later proof unfolds a record
update. (The accessor lemmas of an update that does touch the field are in Laws/Registers.lean and
Laws/Ops.lean.) -/

namespace Sys2Proof.Machine

/-! ### setReg -/

@[simp] theorem State.setReg_cfg (s : State) (x : Reg) (v : Byte) : (s.setReg x v).cfg = s.cfg := rfl
@[simp] theorem State.setReg_V (s : State) (x : Reg) (v : Byte) : (s.setReg x v).V = s.V.set x.val v := rfl
@[simp] theorem State.setReg_pc (s : State) (x : Reg) (v : Byte) : (s.setReg x v).pc = s.pc := rfl
@[simp] theorem State.setReg_I (s : State) (x : Reg) (v : Byte) : (s.setReg x v).I = s.I := rfl
@[simp] theorem State.setReg_stack (s : State) (x : Reg) (v : Byte) : (s.setReg x v).stack = s.stack := rfl
@[simp] theorem State.setReg_sp (s : State) (x : Reg) (v : Byte) : (s.setReg x v).sp = s.sp := rfl
@[simp] theorem State.setReg_DT (s : State) (x : Reg) (v : Byte) : (s.setReg x v).DT = s.DT := rfl
@[simp] theorem State.setReg_ST (s : State) (x : Reg) (v : Byte) : (s.setReg x v).ST = s.ST := rfl
@[simp] theorem State.setReg_mem (s : State) (x : Reg) (v : Byte) : (s.setReg x v).mem = s.mem := rfl
@[simp] theorem State.setReg_fb (s : State) (x : Reg) (v : Byte) : (s.setReg x v).fb = s.fb := rfl
@[simp] theorem State.setReg_fault (s : State) (x : Reg) (v : Byte) : (s.setReg x v).fault = s.fault := rfl
@[simp] theorem State.setReg_fbPush (s : State) (x : Reg) (v : Byte) : (s.setReg x v).fbPush = s.fbPush := rfl
@[simp] theorem State.setReg_now (s : State) (x : Reg) (v : Byte) : (s.setReg x v).now = s.now := rfl
@[simp] theorem State.setReg_later (s : State) (x : Reg) (v : Byte) : (s.setReg x v).later = s.later := rfl
@[simp] theorem State.setReg_rst (s : State) (x : Reg) (v : Byte) : (s.setReg x v).rst = s.rst := rfl
@[simp] theorem State.setReg_seq (s : State) (x : Reg) (v : Byte) : (s.setReg x v).seq = s.seq := rfl
@[simp] theorem State.setReg_stackAt (s : State) (x : Reg) (v : Byte) (j : BitVec 4) :
    (s.setReg x v).stackAt j = s.stackAt j := rfl
@[simp] theorem State.setReg_readByte (s : State) (x : Reg) (v : Byte) (a : Nat) :
    (s.setReg x v).readByte a = s.readByte a := rfl

/-! ### setRegsTo -/

@[simp] theorem State.setRegsTo_cfg (s : State) (x : Reg) (vs : List Byte) :
    (s.setRegsTo x vs).cfg = s.cfg := rfl
@[simp] theorem State.setRegsTo_pc (s : State) (x : Reg) (vs : List Byte) : (s.setRegsTo x vs).pc = s.pc := rfl
@[simp] theorem State.setRegsTo_I (s : State) (x : Reg) (vs : List Byte) : (s.setRegsTo x vs).I = s.I := rfl
@[simp] theorem State.setRegsTo_stack (s : State) (x : Reg) (vs : List Byte) :
    (s.setRegsTo x vs).stack = s.stack := rfl
@[simp] theorem State.setRegsTo_sp (s : State) (x : Reg) (vs : List Byte) : (s.setRegsTo x vs).sp = s.sp := rfl
@[simp] theorem State.setRegsTo_DT (s : State) (x : Reg) (vs : List Byte) : (s.setRegsTo x vs).DT = s.DT := rfl
@[simp] theorem State.setRegsTo_ST (s : State) (x : Reg) (vs : List Byte) : (s.setRegsTo x vs).ST = s.ST := rfl
@[simp] theorem State.setRegsTo_mem (s : State) (x : Reg) (vs : List Byte) :
    (s.setRegsTo x vs).mem = s.mem := rfl
@[simp] theorem State.setRegsTo_fb (s : State) (x : Reg) (vs : List Byte) : (s.setRegsTo x vs).fb = s.fb := rfl
@[simp] theorem State.setRegsTo_fault (s : State) (x : Reg) (vs : List Byte) :
    (s.setRegsTo x vs).fault = s.fault := rfl
@[simp] theorem State.setRegsTo_fbPush (s : State) (x : Reg) (vs : List Byte) :
    (s.setRegsTo x vs).fbPush = s.fbPush := rfl
@[simp] theorem State.setRegsTo_now (s : State) (x : Reg) (vs : List Byte) :
    (s.setRegsTo x vs).now = s.now := rfl
@[simp] theorem State.setRegsTo_later (s : State) (x : Reg) (vs : List Byte) :
    (s.setRegsTo x vs).later = s.later := rfl
@[simp] theorem State.setRegsTo_rst (s : State) (x : Reg) (vs : List Byte) :
    (s.setRegsTo x vs).rst = s.rst := rfl
@[simp] theorem State.setRegsTo_seq (s : State) (x : Reg) (vs : List Byte) :
    (s.setRegsTo x vs).seq = s.seq := rfl
@[simp] theorem State.setRegsTo_stackAt (s : State) (x : Reg) (vs : List Byte) (j : BitVec 4) :
    (s.setRegsTo x vs).stackAt j = s.stackAt j := rfl
@[simp] theorem State.setRegsTo_readByte (s : State) (x : Reg) (vs : List Byte) (a : Nat) :
    (s.setRegsTo x vs).readByte a = s.readByte a := rfl

/-! ### setPc -/

@[simp] theorem State.setPc_cfg (s : State) (t : Word) : (s.setPc t).cfg = s.cfg := rfl
@[simp] theorem State.setPc_V (s : State) (t : Word) : (s.setPc t).V = s.V := rfl
@[simp] theorem State.setPc_pc (s : State) (t : Word) : (s.setPc t).pc = t := rfl
@[simp] theorem State.setPc_I (s : State) (t : Word) : (s.setPc t).I = s.I := rfl
@[simp] theorem State.setPc_stack (s : State) (t : Word) : (s.setPc t).stack = s.stack := rfl
@[simp] theorem State.setPc_sp (s : State) (t : Word) : (s.setPc t).sp = s.sp := rfl
@[simp] theorem State.setPc_DT (s : State) (t : Word) : (s.setPc t).DT = s.DT := rfl
@[simp] theorem State.setPc_ST (s : State) (t : Word) : (s.setPc t).ST = s.ST := rfl
@[simp] theorem State.setPc_mem (s : State) (t : Word) : (s.setPc t).mem = s.mem := rfl
@[simp] theorem State.setPc_fb (s : State) (t : Word) : (s.setPc t).fb = s.fb := rfl
@[simp] theorem State.setPc_fault (s : State) (t : Word) : (s.setPc t).fault = s.fault := rfl
@[simp] theorem State.setPc_fbPush (s : State) (t : Word) : (s.setPc t).fbPush = s.fbPush := rfl
@[simp] theorem State.setPc_now (s : State) (t : Word) : (s.setPc t).now = s.now := rfl
@[simp] theorem State.setPc_later (s : State) (t : Word) : (s.setPc t).later = s.later := rfl
@[simp] theorem State.setPc_rst (s : State) (t : Word) : (s.setPc t).rst = s.rst := rfl
@[simp] theorem State.setPc_seq (s : State) (t : Word) : (s.setPc t).seq = s.seq := rfl
@[simp] theorem State.setPc_reg (s : State) (t : Word) (r : Reg) : (s.setPc t).reg r = s.reg r := rfl
@[simp] theorem State.setPc_stackAt (s : State) (t : Word) (j : BitVec 4) :
    (s.setPc t).stackAt j = s.stackAt j := rfl
@[simp] theorem State.setPc_readByte (s : State) (t : Word) (a : Nat) :
    (s.setPc t).readByte a = s.readByte a := rfl

/-! ### setI -/

@[simp] theorem State.setI_cfg (s : State) (v : Word) : (s.setI v).cfg = s.cfg := rfl
@[simp] theorem State.setI_V (s : State) (v : Word) : (s.setI v).V = s.V := rfl
@[simp] theorem State.setI_pc (s : State) (v : Word) : (s.setI v).pc = s.pc := rfl
@[simp] theorem State.setI_I (s : State) (v : Word) : (s.setI v).I = v := rfl
@[simp] theorem State.setI_stack (s : State) (v : Word) : (s.setI v).stack = s.stack := rfl
@[simp] theorem State.setI_sp (s : State) (v : Word) : (s.setI v).sp = s.sp := rfl
@[simp] theorem State.setI_DT (s : State) (v : Word) : (s.setI v).DT = s.DT := rfl
@[simp] theorem State.setI_ST (s : State) (v : Word) : (s.setI v).ST = s.ST := rfl
@[simp] theorem State.setI_mem (s : State) (v : Word) : (s.setI v).mem = s.mem := rfl
@[simp] theorem State.setI_fb (s : State) (v : Word) : (s.setI v).fb = s.fb := rfl
@[simp] theorem State.setI_fault (s : State) (v : Word) : (s.setI v).fault = s.fault := rfl
@[simp] theorem State.setI_fbPush (s : State) (v : Word) : (s.setI v).fbPush = s.fbPush := rfl
@[simp] theorem State.setI_now (s : State) (v : Word) : (s.setI v).now = s.now := rfl
@[simp] theorem State.setI_later (s : State) (v : Word) : (s.setI v).later = s.later := rfl
@[simp] theorem State.setI_rst (s : State) (v : Word) : (s.setI v).rst = s.rst := rfl
@[simp] theorem State.setI_seq (s : State) (v : Word) : (s.setI v).seq = s.seq := rfl
@[simp] theorem State.setI_reg (s : State) (v : Word) (r : Reg) : (s.setI v).reg r = s.reg r := rfl
@[simp] theorem State.setI_stackAt (s : State) (v : Word) (j : BitVec 4) :
    (s.setI v).stackAt j = s.stackAt j := rfl
@[simp] theorem State.setI_readByte (s : State) (v : Word) (a : Nat) :
    (s.setI v).readByte a = s.readByte a := rfl

/-! ### setDT -/

@[simp] theorem State.setDT_cfg (s : State) (v : Byte) : (s.setDT v).cfg = s.cfg := rfl
@[simp] theorem State.setDT_V (s : State) (v : Byte) : (s.setDT v).V = s.V := rfl
@[simp] theorem State.setDT_pc (s : State) (v : Byte) : (s.setDT v).pc = s.pc := rfl
@[simp] theorem State.setDT_I (s : State) (v : Byte) : (s.setDT v).I = s.I := rfl
@[simp] theorem State.setDT_stack (s : State) (v : Byte) : (s.setDT v).stack = s.stack := rfl
@[simp] theorem State.setDT_sp (s : State) (v : Byte) : (s.setDT v).sp = s.sp := rfl
@[simp] theorem State.setDT_DT (s : State) (v : Byte) : (s.setDT v).DT = v := rfl
@[simp] theorem State.setDT_ST (s : State) (v : Byte) : (s.setDT v).ST = s.ST := rfl
@[simp] theorem State.setDT_mem (s : State) (v : Byte) : (s.setDT v).mem = s.mem := rfl
@[simp] theorem State.setDT_fb (s : State) (v : Byte) : (s.setDT v).fb = s.fb := rfl
@[simp] theorem State.setDT_fault (s : State) (v : Byte) : (s.setDT v).fault = s.fault := rfl
@[simp] theorem State.setDT_fbPush (s : State) (v : Byte) : (s.setDT v).fbPush = s.fbPush := rfl
@[simp] theorem State.setDT_now (s : State) (v : Byte) : (s.setDT v).now = s.now := rfl
@[simp] theorem State.setDT_later (s : State) (v : Byte) : (s.setDT v).later = s.later := rfl
@[simp] theorem State.setDT_rst (s : State) (v : Byte) : (s.setDT v).rst = s.rst := rfl
@[simp] theorem State.setDT_seq (s : State) (v : Byte) : (s.setDT v).seq = s.seq := rfl
@[simp] theorem State.setDT_reg (s : State) (v : Byte) (r : Reg) : (s.setDT v).reg r = s.reg r := rfl
@[simp] theorem State.setDT_stackAt (s : State) (v : Byte) (j : BitVec 4) :
    (s.setDT v).stackAt j = s.stackAt j := rfl
@[simp] theorem State.setDT_readByte (s : State) (v : Byte) (a : Nat) :
    (s.setDT v).readByte a = s.readByte a := rfl

/-! ### setST -/

@[simp] theorem State.setST_cfg (s : State) (v : Byte) : (s.setST v).cfg = s.cfg := rfl
@[simp] theorem State.setST_V (s : State) (v : Byte) : (s.setST v).V = s.V := rfl
@[simp] theorem State.setST_pc (s : State) (v : Byte) : (s.setST v).pc = s.pc := rfl
@[simp] theorem State.setST_I (s : State) (v : Byte) : (s.setST v).I = s.I := rfl
@[simp] theorem State.setST_stack (s : State) (v : Byte) : (s.setST v).stack = s.stack := rfl
@[simp] theorem State.setST_sp (s : State) (v : Byte) : (s.setST v).sp = s.sp := rfl
@[simp] theorem State.setST_DT (s : State) (v : Byte) : (s.setST v).DT = s.DT := rfl
@[simp] theorem State.setST_ST (s : State) (v : Byte) : (s.setST v).ST = v := rfl
@[simp] theorem State.setST_mem (s : State) (v : Byte) : (s.setST v).mem = s.mem := rfl
@[simp] theorem State.setST_fb (s : State) (v : Byte) : (s.setST v).fb = s.fb := rfl
@[simp] theorem State.setST_fault (s : State) (v : Byte) : (s.setST v).fault = s.fault := rfl
@[simp] theorem State.setST_fbPush (s : State) (v : Byte) : (s.setST v).fbPush = s.fbPush := rfl
@[simp] theorem State.setST_now (s : State) (v : Byte) : (s.setST v).now = s.now := rfl
@[simp] theorem State.setST_later (s : State) (v : Byte) : (s.setST v).later = s.later := rfl
@[simp] theorem State.setST_rst (s : State) (v : Byte) : (s.setST v).rst = s.rst := rfl
@[simp] theorem State.setST_seq (s : State) (v : Byte) : (s.setST v).seq = s.seq := rfl
@[simp] theorem State.setST_reg (s : State) (v : Byte) (r : Reg) : (s.setST v).reg r = s.reg r := rfl
@[simp] theorem State.setST_stackAt (s : State) (v : Byte) (j : BitVec 4) :
    (s.setST v).stackAt j = s.stackAt j := rfl
@[simp] theorem State.setST_readByte (s : State) (v : Byte) (a : Nat) :
    (s.setST v).readByte a = s.readByte a := rfl

/-! ### setStackAt -/

@[simp] theorem State.setStackAt_cfg (s : State) (k : BitVec 4) (v : Word) :
    (s.setStackAt k v).cfg = s.cfg := rfl
@[simp] theorem State.setStackAt_V (s : State) (k : BitVec 4) (v : Word) : (s.setStackAt k v).V = s.V := rfl
@[simp] theorem State.setStackAt_pc (s : State) (k : BitVec 4) (v : Word) : (s.setStackAt k v).pc = s.pc := rfl
@[simp] theorem State.setStackAt_I (s : State) (k : BitVec 4) (v : Word) : (s.setStackAt k v).I = s.I := rfl
@[simp] theorem State.setStackAt_stack (s : State) (k : BitVec 4) (v : Word) :
    (s.setStackAt k v).stack = s.stack.set k.toNat v k.isLt := rfl
@[simp] theorem State.setStackAt_sp (s : State) (k : BitVec 4) (v : Word) : (s.setStackAt k v).sp = s.sp := rfl
@[simp] theorem State.setStackAt_DT (s : State) (k : BitVec 4) (v : Word) : (s.setStackAt k v).DT = s.DT := rfl
@[simp] theorem State.setStackAt_ST (s : State) (k : BitVec 4) (v : Word) : (s.setStackAt k v).ST = s.ST := rfl
@[simp] theorem State.setStackAt_mem (s : State) (k : BitVec 4) (v : Word) :
    (s.setStackAt k v).mem = s.mem := rfl
@[simp] theorem State.setStackAt_fb (s : State) (k : BitVec 4) (v : Word) : (s.setStackAt k v).fb = s.fb := rfl
@[simp] theorem State.setStackAt_fault (s : State) (k : BitVec 4) (v : Word) :
    (s.setStackAt k v).fault = s.fault := rfl
@[simp] theorem State.setStackAt_fbPush (s : State) (k : BitVec 4) (v : Word) :
    (s.setStackAt k v).fbPush = s.fbPush := rfl
@[simp] theorem State.setStackAt_now (s : State) (k : BitVec 4) (v : Word) :
    (s.setStackAt k v).now = s.now := rfl
@[simp] theorem State.setStackAt_later (s : State) (k : BitVec 4) (v : Word) :
    (s.setStackAt k v).later = s.later := rfl
@[simp] theorem State.setStackAt_rst (s : State) (k : BitVec 4) (v : Word) :
    (s.setStackAt k v).rst = s.rst := rfl
@[simp] theorem State.setStackAt_seq (s : State) (k : BitVec 4) (v : Word) :
    (s.setStackAt k v).seq = s.seq := rfl
@[simp] theorem State.setStackAt_reg (s : State) (k : BitVec 4) (v : Word) (r : Reg) :
    (s.setStackAt k v).reg r = s.reg r := rfl
@[simp] theorem State.setStackAt_readByte (s : State) (k : BitVec 4) (v : Word) (a : Nat) :
    (s.setStackAt k v).readByte a = s.readByte a := rfl

/-! ### setSp -/

@[simp] theorem State.setSp_cfg (s : State) (k : BitVec 4) : (s.setSp k).cfg = s.cfg := rfl
@[simp] theorem State.setSp_V (s : State) (k : BitVec 4) : (s.setSp k).V = s.V := rfl
@[simp] theorem State.setSp_pc (s : State) (k : BitVec 4) : (s.setSp k).pc = s.pc := rfl
@[simp] theorem State.setSp_I (s : State) (k : BitVec 4) : (s.setSp k).I = s.I := rfl
@[simp] theorem State.setSp_stack (s : State) (k : BitVec 4) : (s.setSp k).stack = s.stack := rfl
@[simp] theorem State.setSp_sp (s : State) (k : BitVec 4) : (s.setSp k).sp = k := rfl
@[simp] theorem State.setSp_DT (s : State) (k : BitVec 4) : (s.setSp k).DT = s.DT := rfl
@[simp] theorem State.setSp_ST (s : State) (k : BitVec 4) : (s.setSp k).ST = s.ST := rfl
@[simp] theorem State.setSp_mem (s : State) (k : BitVec 4) : (s.setSp k).mem = s.mem := rfl
@[simp] theorem State.setSp_fb (s : State) (k : BitVec 4) : (s.setSp k).fb = s.fb := rfl
@[simp] theorem State.setSp_fault (s : State) (k : BitVec 4) : (s.setSp k).fault = s.fault := rfl
@[simp] theorem State.setSp_fbPush (s : State) (k : BitVec 4) : (s.setSp k).fbPush = s.fbPush := rfl
@[simp] theorem State.setSp_now (s : State) (k : BitVec 4) : (s.setSp k).now = s.now := rfl
@[simp] theorem State.setSp_later (s : State) (k : BitVec 4) : (s.setSp k).later = s.later := rfl
@[simp] theorem State.setSp_rst (s : State) (k : BitVec 4) : (s.setSp k).rst = s.rst := rfl
@[simp] theorem State.setSp_seq (s : State) (k : BitVec 4) : (s.setSp k).seq = s.seq := rfl
@[simp] theorem State.setSp_reg (s : State) (k : BitVec 4) (r : Reg) : (s.setSp k).reg r = s.reg r := rfl
@[simp] theorem State.setSp_stackAt (s : State) (k : BitVec 4) (j : BitVec 4) :
    (s.setSp k).stackAt j = s.stackAt j := rfl
@[simp] theorem State.setSp_readByte (s : State) (k : BitVec 4) (a : Nat) :
    (s.setSp k).readByte a = s.readByte a := rfl

/-! ### setMem -/

@[simp] theorem State.setMem_cfg (s : State) (m : Memory) : (s.setMem m).cfg = s.cfg := rfl
@[simp] theorem State.setMem_V (s : State) (m : Memory) : (s.setMem m).V = s.V := rfl
@[simp] theorem State.setMem_pc (s : State) (m : Memory) : (s.setMem m).pc = s.pc := rfl
@[simp] theorem State.setMem_I (s : State) (m : Memory) : (s.setMem m).I = s.I := rfl
@[simp] theorem State.setMem_stack (s : State) (m : Memory) : (s.setMem m).stack = s.stack := rfl
@[simp] theorem State.setMem_sp (s : State) (m : Memory) : (s.setMem m).sp = s.sp := rfl
@[simp] theorem State.setMem_DT (s : State) (m : Memory) : (s.setMem m).DT = s.DT := rfl
@[simp] theorem State.setMem_ST (s : State) (m : Memory) : (s.setMem m).ST = s.ST := rfl
@[simp] theorem State.setMem_mem (s : State) (m : Memory) : (s.setMem m).mem = m := rfl
@[simp] theorem State.setMem_fb (s : State) (m : Memory) : (s.setMem m).fb = s.fb := rfl
@[simp] theorem State.setMem_fault (s : State) (m : Memory) : (s.setMem m).fault = s.fault := rfl
@[simp] theorem State.setMem_fbPush (s : State) (m : Memory) : (s.setMem m).fbPush = s.fbPush := rfl
@[simp] theorem State.setMem_now (s : State) (m : Memory) : (s.setMem m).now = s.now := rfl
@[simp] theorem State.setMem_later (s : State) (m : Memory) : (s.setMem m).later = s.later := rfl
@[simp] theorem State.setMem_rst (s : State) (m : Memory) : (s.setMem m).rst = s.rst := rfl
@[simp] theorem State.setMem_seq (s : State) (m : Memory) : (s.setMem m).seq = s.seq := rfl
@[simp] theorem State.setMem_reg (s : State) (m : Memory) (r : Reg) : (s.setMem m).reg r = s.reg r := rfl
@[simp] theorem State.setMem_stackAt (s : State) (m : Memory) (j : BitVec 4) :
    (s.setMem m).stackAt j = s.stackAt j := rfl

/-! ### setFb -/

@[simp] theorem State.setFb_cfg (s : State) (f : Frame) : (s.setFb f).cfg = s.cfg := rfl
@[simp] theorem State.setFb_V (s : State) (f : Frame) : (s.setFb f).V = s.V := rfl
@[simp] theorem State.setFb_pc (s : State) (f : Frame) : (s.setFb f).pc = s.pc := rfl
@[simp] theorem State.setFb_I (s : State) (f : Frame) : (s.setFb f).I = s.I := rfl
@[simp] theorem State.setFb_stack (s : State) (f : Frame) : (s.setFb f).stack = s.stack := rfl
@[simp] theorem State.setFb_sp (s : State) (f : Frame) : (s.setFb f).sp = s.sp := rfl
@[simp] theorem State.setFb_DT (s : State) (f : Frame) : (s.setFb f).DT = s.DT := rfl
@[simp] theorem State.setFb_ST (s : State) (f : Frame) : (s.setFb f).ST = s.ST := rfl
@[simp] theorem State.setFb_mem (s : State) (f : Frame) : (s.setFb f).mem = s.mem := rfl
@[simp] theorem State.setFb_fb (s : State) (f : Frame) : (s.setFb f).fb = f := rfl
@[simp] theorem State.setFb_fault (s : State) (f : Frame) : (s.setFb f).fault = s.fault := rfl
@[simp] theorem State.setFb_fbPush (s : State) (f : Frame) : (s.setFb f).fbPush = s.fbPush := rfl
@[simp] theorem State.setFb_now (s : State) (f : Frame) : (s.setFb f).now = s.now := rfl
@[simp] theorem State.setFb_later (s : State) (f : Frame) : (s.setFb f).later = s.later := rfl
@[simp] theorem State.setFb_rst (s : State) (f : Frame) : (s.setFb f).rst = s.rst := rfl
@[simp] theorem State.setFb_seq (s : State) (f : Frame) : (s.setFb f).seq = s.seq := rfl
@[simp] theorem State.setFb_reg (s : State) (f : Frame) (r : Reg) : (s.setFb f).reg r = s.reg r := rfl
@[simp] theorem State.setFb_stackAt (s : State) (f : Frame) (j : BitVec 4) :
    (s.setFb f).stackAt j = s.stackAt j := rfl
@[simp] theorem State.setFb_readByte (s : State) (f : Frame) (a : Nat) :
    (s.setFb f).readByte a = s.readByte a := rfl

/-! ### setFbPush -/

@[simp] theorem State.setFbPush_cfg (s : State) (b : Bool) : (s.setFbPush b).cfg = s.cfg := rfl
@[simp] theorem State.setFbPush_V (s : State) (b : Bool) : (s.setFbPush b).V = s.V := rfl
@[simp] theorem State.setFbPush_pc (s : State) (b : Bool) : (s.setFbPush b).pc = s.pc := rfl
@[simp] theorem State.setFbPush_I (s : State) (b : Bool) : (s.setFbPush b).I = s.I := rfl
@[simp] theorem State.setFbPush_stack (s : State) (b : Bool) : (s.setFbPush b).stack = s.stack := rfl
@[simp] theorem State.setFbPush_sp (s : State) (b : Bool) : (s.setFbPush b).sp = s.sp := rfl
@[simp] theorem State.setFbPush_DT (s : State) (b : Bool) : (s.setFbPush b).DT = s.DT := rfl
@[simp] theorem State.setFbPush_ST (s : State) (b : Bool) : (s.setFbPush b).ST = s.ST := rfl
@[simp] theorem State.setFbPush_mem (s : State) (b : Bool) : (s.setFbPush b).mem = s.mem := rfl
@[simp] theorem State.setFbPush_fb (s : State) (b : Bool) : (s.setFbPush b).fb = s.fb := rfl
@[simp] theorem State.setFbPush_fault (s : State) (b : Bool) : (s.setFbPush b).fault = s.fault := rfl
@[simp] theorem State.setFbPush_fbPush (s : State) (b : Bool) : (s.setFbPush b).fbPush = b := rfl
@[simp] theorem State.setFbPush_now (s : State) (b : Bool) : (s.setFbPush b).now = s.now := rfl
@[simp] theorem State.setFbPush_later (s : State) (b : Bool) : (s.setFbPush b).later = s.later := rfl
@[simp] theorem State.setFbPush_rst (s : State) (b : Bool) : (s.setFbPush b).rst = s.rst := rfl
@[simp] theorem State.setFbPush_seq (s : State) (b : Bool) : (s.setFbPush b).seq = s.seq := rfl
@[simp] theorem State.setFbPush_reg (s : State) (b : Bool) (r : Reg) : (s.setFbPush b).reg r = s.reg r := rfl
@[simp] theorem State.setFbPush_stackAt (s : State) (b : Bool) (j : BitVec 4) :
    (s.setFbPush b).stackAt j = s.stackAt j := rfl
@[simp] theorem State.setFbPush_readByte (s : State) (b : Bool) (a : Nat) :
    (s.setFbPush b).readByte a = s.readByte a := rfl

/-! ### setRst -/

@[simp] theorem State.setRst_cfg (s : State) (b : Bool) : (s.setRst b).cfg = s.cfg := rfl
@[simp] theorem State.setRst_V (s : State) (b : Bool) : (s.setRst b).V = s.V := rfl
@[simp] theorem State.setRst_pc (s : State) (b : Bool) : (s.setRst b).pc = s.pc := rfl
@[simp] theorem State.setRst_I (s : State) (b : Bool) : (s.setRst b).I = s.I := rfl
@[simp] theorem State.setRst_stack (s : State) (b : Bool) : (s.setRst b).stack = s.stack := rfl
@[simp] theorem State.setRst_sp (s : State) (b : Bool) : (s.setRst b).sp = s.sp := rfl
@[simp] theorem State.setRst_DT (s : State) (b : Bool) : (s.setRst b).DT = s.DT := rfl
@[simp] theorem State.setRst_ST (s : State) (b : Bool) : (s.setRst b).ST = s.ST := rfl
@[simp] theorem State.setRst_mem (s : State) (b : Bool) : (s.setRst b).mem = s.mem := rfl
@[simp] theorem State.setRst_fb (s : State) (b : Bool) : (s.setRst b).fb = s.fb := rfl
@[simp] theorem State.setRst_fault (s : State) (b : Bool) : (s.setRst b).fault = s.fault := rfl
@[simp] theorem State.setRst_fbPush (s : State) (b : Bool) : (s.setRst b).fbPush = s.fbPush := rfl
@[simp] theorem State.setRst_rst (s : State) (b : Bool) : (s.setRst b).rst = b := rfl
@[simp] theorem State.setRst_now (s : State) (b : Bool) : (s.setRst b).now = s.now := rfl
@[simp] theorem State.setRst_later (s : State) (b : Bool) : (s.setRst b).later = s.later := rfl
@[simp] theorem State.setRst_seq (s : State) (b : Bool) : (s.setRst b).seq = s.seq := rfl
@[simp] theorem State.setRst_reg (s : State) (b : Bool) (r : Reg) : (s.setRst b).reg r = s.reg r := rfl
@[simp] theorem State.setRst_stackAt (s : State) (b : Bool) (j : BitVec 4) :
    (s.setRst b).stackAt j = s.stackAt j := rfl
@[simp] theorem State.setRst_readByte (s : State) (b : Bool) (a : Nat) :
    (s.setRst b).readByte a = s.readByte a := rfl

/-! ### setFault -/

@[simp] theorem State.setFault_cfg (s : State) (f : FaultLatch) : (s.setFault f).cfg = s.cfg := rfl
@[simp] theorem State.setFault_V (s : State) (f : FaultLatch) : (s.setFault f).V = s.V := rfl
@[simp] theorem State.setFault_pc (s : State) (f : FaultLatch) : (s.setFault f).pc = s.pc := rfl
@[simp] theorem State.setFault_I (s : State) (f : FaultLatch) : (s.setFault f).I = s.I := rfl
@[simp] theorem State.setFault_stack (s : State) (f : FaultLatch) : (s.setFault f).stack = s.stack := rfl
@[simp] theorem State.setFault_sp (s : State) (f : FaultLatch) : (s.setFault f).sp = s.sp := rfl
@[simp] theorem State.setFault_DT (s : State) (f : FaultLatch) : (s.setFault f).DT = s.DT := rfl
@[simp] theorem State.setFault_ST (s : State) (f : FaultLatch) : (s.setFault f).ST = s.ST := rfl
@[simp] theorem State.setFault_mem (s : State) (f : FaultLatch) : (s.setFault f).mem = s.mem := rfl
@[simp] theorem State.setFault_fb (s : State) (f : FaultLatch) : (s.setFault f).fb = s.fb := rfl
@[simp] theorem State.setFault_fault (s : State) (f : FaultLatch) : (s.setFault f).fault = f := rfl
@[simp] theorem State.setFault_fbPush (s : State) (f : FaultLatch) : (s.setFault f).fbPush = s.fbPush := rfl
@[simp] theorem State.setFault_now (s : State) (f : FaultLatch) : (s.setFault f).now = s.now := rfl
@[simp] theorem State.setFault_later (s : State) (f : FaultLatch) : (s.setFault f).later = s.later := rfl
@[simp] theorem State.setFault_rst (s : State) (f : FaultLatch) : (s.setFault f).rst = s.rst := rfl
@[simp] theorem State.setFault_seq (s : State) (f : FaultLatch) : (s.setFault f).seq = s.seq := rfl
@[simp] theorem State.setFault_reg (s : State) (f : FaultLatch) (r : Reg) :
    (s.setFault f).reg r = s.reg r := rfl
@[simp] theorem State.setFault_stackAt (s : State) (f : FaultLatch) (j : BitVec 4) :
    (s.setFault f).stackAt j = s.stackAt j := rfl
@[simp] theorem State.setFault_readByte (s : State) (f : FaultLatch) (a : Nat) :
    (s.setFault f).readByte a = s.readByte a := rfl

/-! ### writeAtI -/

@[simp] theorem State.writeAtI_cfg (s : State) (bs : List Byte) : (s.writeAtI bs).cfg = s.cfg := rfl
@[simp] theorem State.writeAtI_V (s : State) (bs : List Byte) : (s.writeAtI bs).V = s.V := rfl
@[simp] theorem State.writeAtI_pc (s : State) (bs : List Byte) : (s.writeAtI bs).pc = s.pc := rfl
@[simp] theorem State.writeAtI_I (s : State) (bs : List Byte) : (s.writeAtI bs).I = s.I := rfl
@[simp] theorem State.writeAtI_stack (s : State) (bs : List Byte) : (s.writeAtI bs).stack = s.stack := rfl
@[simp] theorem State.writeAtI_sp (s : State) (bs : List Byte) : (s.writeAtI bs).sp = s.sp := rfl
@[simp] theorem State.writeAtI_DT (s : State) (bs : List Byte) : (s.writeAtI bs).DT = s.DT := rfl
@[simp] theorem State.writeAtI_ST (s : State) (bs : List Byte) : (s.writeAtI bs).ST = s.ST := rfl
@[simp] theorem State.writeAtI_mem (s : State) (bs : List Byte) :
    (s.writeAtI bs).mem = s.mem.writeBytes s.cfg s.I.toNat bs := rfl
@[simp] theorem State.writeAtI_fb (s : State) (bs : List Byte) : (s.writeAtI bs).fb = s.fb := rfl
@[simp] theorem State.writeAtI_fault (s : State) (bs : List Byte) : (s.writeAtI bs).fault = s.fault := rfl
@[simp] theorem State.writeAtI_fbPush (s : State) (bs : List Byte) : (s.writeAtI bs).fbPush = s.fbPush := rfl
@[simp] theorem State.writeAtI_now (s : State) (bs : List Byte) : (s.writeAtI bs).now = s.now := rfl
@[simp] theorem State.writeAtI_later (s : State) (bs : List Byte) : (s.writeAtI bs).later = s.later := rfl
@[simp] theorem State.writeAtI_rst (s : State) (bs : List Byte) : (s.writeAtI bs).rst = s.rst := rfl
@[simp] theorem State.writeAtI_seq (s : State) (bs : List Byte) : (s.writeAtI bs).seq = s.seq := rfl
@[simp] theorem State.writeAtI_reg (s : State) (bs : List Byte) (r : Reg) :
    (s.writeAtI bs).reg r = s.reg r := rfl
@[simp] theorem State.writeAtI_stackAt (s : State) (bs : List Byte) (j : BitVec 4) :
    (s.writeAtI bs).stackAt j = s.stackAt j := rfl

/-! ### pushDisplay -/

@[simp] theorem State.pushDisplay_cfg (s : State) : (s.pushDisplay).cfg = s.cfg := rfl
@[simp] theorem State.pushDisplay_V (s : State) : (s.pushDisplay).V = s.V := rfl
@[simp] theorem State.pushDisplay_pc (s : State) : (s.pushDisplay).pc = s.pc := rfl
@[simp] theorem State.pushDisplay_I (s : State) : (s.pushDisplay).I = s.I := rfl
@[simp] theorem State.pushDisplay_stack (s : State) : (s.pushDisplay).stack = s.stack := rfl
@[simp] theorem State.pushDisplay_sp (s : State) : (s.pushDisplay).sp = s.sp := rfl
@[simp] theorem State.pushDisplay_DT (s : State) : (s.pushDisplay).DT = s.DT := rfl
@[simp] theorem State.pushDisplay_ST (s : State) : (s.pushDisplay).ST = s.ST := rfl
@[simp] theorem State.pushDisplay_mem (s : State) : (s.pushDisplay).mem = s.mem := rfl
@[simp] theorem State.pushDisplay_fb (s : State) : (s.pushDisplay).fb = s.fb := rfl
@[simp] theorem State.pushDisplay_fault (s : State) : (s.pushDisplay).fault = s.fault := rfl
@[simp] theorem State.pushDisplay_fbPush (s : State) : (s.pushDisplay).fbPush = true := rfl
@[simp] theorem State.pushDisplay_now (s : State) : (s.pushDisplay).now = s.now := rfl
@[simp] theorem State.pushDisplay_later (s : State) : (s.pushDisplay).later = s.later := rfl
@[simp] theorem State.pushDisplay_rst (s : State) : (s.pushDisplay).rst = s.rst := rfl
@[simp] theorem State.pushDisplay_seq (s : State) : (s.pushDisplay).seq = s.seq := rfl
@[simp] theorem State.pushDisplay_reg (s : State) (r : Reg) : (s.pushDisplay).reg r = s.reg r := rfl
@[simp] theorem State.pushDisplay_stackAt (s : State) (j : BitVec 4) :
    (s.pushDisplay).stackAt j = s.stackAt j := rfl
@[simp] theorem State.pushDisplay_readByte (s : State) (a : Nat) :
    (s.pushDisplay).readByte a = s.readByte a := rfl

/-! ### raiseFatal -/

@[simp] theorem State.raiseFatal_cfg (s : State) (c : FatalCause) (op : Word) :
    (s.raiseFatal c op).cfg = s.cfg := rfl
@[simp] theorem State.raiseFatal_V (s : State) (c : FatalCause) (op : Word) :
    (s.raiseFatal c op).V = s.V := rfl
@[simp] theorem State.raiseFatal_pc (s : State) (c : FatalCause) (op : Word) :
    (s.raiseFatal c op).pc = s.pc := rfl
@[simp] theorem State.raiseFatal_I (s : State) (c : FatalCause) (op : Word) :
    (s.raiseFatal c op).I = s.I := rfl
@[simp] theorem State.raiseFatal_stack (s : State) (c : FatalCause) (op : Word) :
    (s.raiseFatal c op).stack = s.stack := rfl
@[simp] theorem State.raiseFatal_sp (s : State) (c : FatalCause) (op : Word) :
    (s.raiseFatal c op).sp = s.sp := rfl
@[simp] theorem State.raiseFatal_DT (s : State) (c : FatalCause) (op : Word) :
    (s.raiseFatal c op).DT = s.DT := rfl
@[simp] theorem State.raiseFatal_ST (s : State) (c : FatalCause) (op : Word) :
    (s.raiseFatal c op).ST = s.ST := rfl
@[simp] theorem State.raiseFatal_mem (s : State) (c : FatalCause) (op : Word) :
    (s.raiseFatal c op).mem = s.mem := rfl
@[simp] theorem State.raiseFatal_fb (s : State) (c : FatalCause) (op : Word) :
    (s.raiseFatal c op).fb = s.fb := rfl
@[simp] theorem State.raiseFatal_fault (s : State) (c : FatalCause) (op : Word) :
    (s.raiseFatal c op).fault = { valid := true, cause := c.code, addr := s.pc, opcode := op } := rfl
@[simp] theorem State.raiseFatal_fbPush (s : State) (c : FatalCause) (op : Word) :
    (s.raiseFatal c op).fbPush = s.fbPush := rfl
@[simp] theorem State.raiseFatal_now (s : State) (c : FatalCause) (op : Word) :
    (s.raiseFatal c op).now = s.now := rfl
@[simp] theorem State.raiseFatal_later (s : State) (c : FatalCause) (op : Word) :
    (s.raiseFatal c op).later = s.later := rfl
@[simp] theorem State.raiseFatal_rst (s : State) (c : FatalCause) (op : Word) :
    (s.raiseFatal c op).rst = s.rst := rfl
@[simp] theorem State.raiseFatal_seq (s : State) (c : FatalCause) (op : Word) :
    (s.raiseFatal c op).seq = s.seq := rfl
@[simp] theorem State.raiseFatal_reg (s : State) (c : FatalCause) (op : Word) (r : Reg) :
    (s.raiseFatal c op).reg r = s.reg r := rfl
@[simp] theorem State.raiseFatal_stackAt (s : State) (c : FatalCause) (op : Word) (j : BitVec 4) :
    (s.raiseFatal c op).stackAt j = s.stackAt j := rfl
@[simp] theorem State.raiseFatal_readByte (s : State) (c : FatalCause) (op : Word) (a : Nat) :
    (s.raiseFatal c op).readByte a = s.readByte a := rfl

/-! ### advance -/

@[simp] theorem State.advance_cfg (s : State) : (s.advance).cfg = s.cfg := rfl
@[simp] theorem State.advance_V (s : State) : (s.advance).V = s.V := rfl
@[simp] theorem State.advance_pc (s : State) : (s.advance).pc = s.pc + 2 := rfl
@[simp] theorem State.advance_I (s : State) : (s.advance).I = s.I := rfl
@[simp] theorem State.advance_stack (s : State) : (s.advance).stack = s.stack := rfl
@[simp] theorem State.advance_sp (s : State) : (s.advance).sp = s.sp := rfl
@[simp] theorem State.advance_DT (s : State) : (s.advance).DT = s.DT := rfl
@[simp] theorem State.advance_ST (s : State) : (s.advance).ST = s.ST := rfl
@[simp] theorem State.advance_mem (s : State) : (s.advance).mem = s.mem := rfl
@[simp] theorem State.advance_fb (s : State) : (s.advance).fb = s.fb := rfl
@[simp] theorem State.advance_fault (s : State) : (s.advance).fault = s.fault := rfl
@[simp] theorem State.advance_fbPush (s : State) : (s.advance).fbPush = s.fbPush := rfl
@[simp] theorem State.advance_now (s : State) : (s.advance).now = s.now := rfl
@[simp] theorem State.advance_later (s : State) : (s.advance).later = s.later := rfl
@[simp] theorem State.advance_rst (s : State) : (s.advance).rst = s.rst := rfl
@[simp] theorem State.advance_seq (s : State) : (s.advance).seq = s.seq := rfl
@[simp] theorem State.advance_reg (s : State) (r : Reg) : (s.advance).reg r = s.reg r := rfl
@[simp] theorem State.advance_stackAt (s : State) (j : BitVec 4) : (s.advance).stackAt j = s.stackAt j := rfl
@[simp] theorem State.advance_readByte (s : State) (a : Nat) : (s.advance).readByte a = s.readByte a := rfl

/-! ### setRegThenFlag -/

@[simp] theorem State.setRegThenFlag_cfg (s : State) (x : Reg) (v : Byte) (b : Bool) :
    (s.setRegThenFlag x v b).cfg = s.cfg := rfl
@[simp] theorem State.setRegThenFlag_V (s : State) (x : Reg) (v : Byte) (b : Bool) :
    (s.setRegThenFlag x v b).V = (s.V.set x.val v).set 15 (flagByte b) := rfl
@[simp] theorem State.setRegThenFlag_pc (s : State) (x : Reg) (v : Byte) (b : Bool) :
    (s.setRegThenFlag x v b).pc = s.pc := rfl
@[simp] theorem State.setRegThenFlag_I (s : State) (x : Reg) (v : Byte) (b : Bool) :
    (s.setRegThenFlag x v b).I = s.I := rfl
@[simp] theorem State.setRegThenFlag_stack (s : State) (x : Reg) (v : Byte) (b : Bool) :
    (s.setRegThenFlag x v b).stack = s.stack := rfl
@[simp] theorem State.setRegThenFlag_sp (s : State) (x : Reg) (v : Byte) (b : Bool) :
    (s.setRegThenFlag x v b).sp = s.sp := rfl
@[simp] theorem State.setRegThenFlag_DT (s : State) (x : Reg) (v : Byte) (b : Bool) :
    (s.setRegThenFlag x v b).DT = s.DT := rfl
@[simp] theorem State.setRegThenFlag_ST (s : State) (x : Reg) (v : Byte) (b : Bool) :
    (s.setRegThenFlag x v b).ST = s.ST := rfl
@[simp] theorem State.setRegThenFlag_mem (s : State) (x : Reg) (v : Byte) (b : Bool) :
    (s.setRegThenFlag x v b).mem = s.mem := rfl
@[simp] theorem State.setRegThenFlag_fb (s : State) (x : Reg) (v : Byte) (b : Bool) :
    (s.setRegThenFlag x v b).fb = s.fb := rfl
@[simp] theorem State.setRegThenFlag_fault (s : State) (x : Reg) (v : Byte) (b : Bool) :
    (s.setRegThenFlag x v b).fault = s.fault := rfl
@[simp] theorem State.setRegThenFlag_fbPush (s : State) (x : Reg) (v : Byte) (b : Bool) :
    (s.setRegThenFlag x v b).fbPush = s.fbPush := rfl
@[simp] theorem State.setRegThenFlag_now (s : State) (x : Reg) (v : Byte) (b : Bool) :
    (s.setRegThenFlag x v b).now = s.now := rfl
@[simp] theorem State.setRegThenFlag_later (s : State) (x : Reg) (v : Byte) (b : Bool) :
    (s.setRegThenFlag x v b).later = s.later := rfl
@[simp] theorem State.setRegThenFlag_rst (s : State) (x : Reg) (v : Byte) (b : Bool) :
    (s.setRegThenFlag x v b).rst = s.rst := rfl
@[simp] theorem State.setRegThenFlag_seq (s : State) (x : Reg) (v : Byte) (b : Bool) :
    (s.setRegThenFlag x v b).seq = s.seq := rfl
@[simp] theorem State.setRegThenFlag_stackAt (s : State) (x : Reg) (v : Byte) (b : Bool) (j : BitVec 4) :
    (s.setRegThenFlag x v b).stackAt j = s.stackAt j := rfl
@[simp] theorem State.setRegThenFlag_readByte (s : State) (x : Reg) (v : Byte) (b : Bool) (a : Nat) :
    (s.setRegThenFlag x v b).readByte a = s.readByte a := rfl

/-! ### tick -/

@[simp] theorem State.tick_cfg (s : State) : (s.tick).cfg = s.cfg := rfl
@[simp] theorem State.tick_V (s : State) : (s.tick).V = s.V := rfl
@[simp] theorem State.tick_pc (s : State) : (s.tick).pc = s.pc := rfl
@[simp] theorem State.tick_I (s : State) : (s.tick).I = s.I := rfl
@[simp] theorem State.tick_stack (s : State) : (s.tick).stack = s.stack := rfl
@[simp] theorem State.tick_sp (s : State) : (s.tick).sp = s.sp := rfl
@[simp] theorem State.tick_DT (s : State) : (s.tick).DT = tickTimer s.DT := rfl
@[simp] theorem State.tick_ST (s : State) : (s.tick).ST = tickTimer s.ST := rfl
@[simp] theorem State.tick_mem (s : State) : (s.tick).mem = s.mem := rfl
@[simp] theorem State.tick_fb (s : State) : (s.tick).fb = s.fb := rfl
@[simp] theorem State.tick_fault (s : State) : (s.tick).fault = s.fault := rfl
@[simp] theorem State.tick_fbPush (s : State) : (s.tick).fbPush = s.fbPush := rfl
@[simp] theorem State.tick_now (s : State) : (s.tick).now = s.now := rfl
@[simp] theorem State.tick_later (s : State) : (s.tick).later = s.later := rfl
@[simp] theorem State.tick_rst (s : State) : (s.tick).rst = s.rst := rfl
@[simp] theorem State.tick_seq (s : State) : (s.tick).seq = s.seq := rfl
@[simp] theorem State.tick_reg (s : State) (r : Reg) : (s.tick).reg r = s.reg r := rfl
@[simp] theorem State.tick_stackAt (s : State) (j : BitVec 4) : (s.tick).stackAt j = s.stackAt j := rfl
@[simp] theorem State.tick_readByte (s : State) (a : Nat) : (s.tick).readByte a = s.readByte a := rfl

/-! ### ticks -/

@[simp] theorem State.ticks_cfg (s : State) (n : Nat) : (s.ticks n).cfg = s.cfg := rfl
@[simp] theorem State.ticks_V (s : State) (n : Nat) : (s.ticks n).V = s.V := rfl
@[simp] theorem State.ticks_pc (s : State) (n : Nat) : (s.ticks n).pc = s.pc := rfl
@[simp] theorem State.ticks_I (s : State) (n : Nat) : (s.ticks n).I = s.I := rfl
@[simp] theorem State.ticks_stack (s : State) (n : Nat) : (s.ticks n).stack = s.stack := rfl
@[simp] theorem State.ticks_sp (s : State) (n : Nat) : (s.ticks n).sp = s.sp := rfl
@[simp] theorem State.ticks_DT (s : State) (n : Nat) : (s.ticks n).DT = countDown n s.DT := rfl
@[simp] theorem State.ticks_ST (s : State) (n : Nat) : (s.ticks n).ST = countDown n s.ST := rfl
@[simp] theorem State.ticks_mem (s : State) (n : Nat) : (s.ticks n).mem = s.mem := rfl
@[simp] theorem State.ticks_fb (s : State) (n : Nat) : (s.ticks n).fb = s.fb := rfl
@[simp] theorem State.ticks_fault (s : State) (n : Nat) : (s.ticks n).fault = s.fault := rfl
@[simp] theorem State.ticks_fbPush (s : State) (n : Nat) : (s.ticks n).fbPush = s.fbPush := rfl
@[simp] theorem State.ticks_now (s : State) (n : Nat) : (s.ticks n).now = s.now := rfl
@[simp] theorem State.ticks_later (s : State) (n : Nat) : (s.ticks n).later = s.later := rfl
@[simp] theorem State.ticks_rst (s : State) (n : Nat) : (s.ticks n).rst = s.rst := rfl
@[simp] theorem State.ticks_seq (s : State) (n : Nat) : (s.ticks n).seq = s.seq := rfl
@[simp] theorem State.ticks_reg (s : State) (n : Nat) (r : Reg) : (s.ticks n).reg r = s.reg r := rfl
@[simp] theorem State.ticks_stackAt (s : State) (n : Nat) (j : BitVec 4) :
    (s.ticks n).stackAt j = s.stackAt j := rfl
@[simp] theorem State.ticks_readByte (s : State) (n : Nat) (a : Nat) :
    (s.ticks n).readByte a = s.readByte a := rfl

/-! ### clearEvents -/

@[simp] theorem State.clearEvents_cfg (s : State) : (s.clearEvents).cfg = s.cfg := rfl
@[simp] theorem State.clearEvents_V (s : State) : (s.clearEvents).V = s.V := rfl
@[simp] theorem State.clearEvents_pc (s : State) : (s.clearEvents).pc = s.pc := rfl
@[simp] theorem State.clearEvents_I (s : State) : (s.clearEvents).I = s.I := rfl
@[simp] theorem State.clearEvents_stack (s : State) : (s.clearEvents).stack = s.stack := rfl
@[simp] theorem State.clearEvents_sp (s : State) : (s.clearEvents).sp = s.sp := rfl
@[simp] theorem State.clearEvents_DT (s : State) : (s.clearEvents).DT = s.DT := rfl
@[simp] theorem State.clearEvents_ST (s : State) : (s.clearEvents).ST = s.ST := rfl
@[simp] theorem State.clearEvents_mem (s : State) : (s.clearEvents).mem = s.mem := rfl
@[simp] theorem State.clearEvents_fb (s : State) : (s.clearEvents).fb = s.fb := rfl
@[simp] theorem State.clearEvents_fault (s : State) : (s.clearEvents).fault = s.fault := rfl
@[simp] theorem State.clearEvents_fbPush (s : State) : (s.clearEvents).fbPush = s.fbPush := rfl
@[simp] theorem State.clearEvents_now (s : State) : (s.clearEvents).now = { s.now with before := [] } := rfl
@[simp] theorem State.clearEvents_later (s : State) : (s.clearEvents).later = s.later := rfl
@[simp] theorem State.clearEvents_rst (s : State) : (s.clearEvents).rst = s.rst := rfl
@[simp] theorem State.clearEvents_seq (s : State) : (s.clearEvents).seq = s.seq := rfl
@[simp] theorem State.clearEvents_reg (s : State) (r : Reg) : (s.clearEvents).reg r = s.reg r := rfl
@[simp] theorem State.clearEvents_stackAt (s : State) (j : BitVec 4) :
    (s.clearEvents).stackAt j = s.stackAt j := rfl
@[simp] theorem State.clearEvents_readByte (s : State) (a : Nat) :
    (s.clearEvents).readByte a = s.readByte a := rfl

end Sys2Proof.Machine
end

