-- ==== Sys2Proof/Laws/Registers.lean ====
section
/-! SUPPORT. The general registers and the stack under their updates (R10, R16): read after write, and
what a write leaves alone. -/

namespace Sys2Proof.Machine

/-- Two states with the same register file have the same registers. -/
theorem State.reg_congr {s t : State} (h : s.V = t.V) (r : Reg) : s.reg r = t.reg r := by
  simp [State.reg, h]

@[simp] theorem State.reg_setReg_same (s : State) (x : Reg) (v : Byte) : (s.setReg x v).reg x = v := by
  simp [State.reg]

theorem State.reg_setReg_ne (s : State) {x r : Reg} (v : Byte) (h : r ≠ x) :
    (s.setReg x v).reg r = s.reg r := by
  have h' : ¬ x.val = r.val := fun e => h (Fin.ext e.symm)
  simp [State.reg, h']

/-- A register after a write: the value written if it is the one written. -/
theorem State.reg_setReg (s : State) (x r : Reg) (v : Byte) :
    (s.setReg x v).reg r = if r = x then v else s.reg r := by
  split
  · next h => rw [h, State.reg_setReg_same]
  · next h => exact State.reg_setReg_ne s v h

/-- A register after a register load: from the bytes up to `x`, as before above it (R115). -/
theorem State.reg_setRegsTo (s : State) (x r : Reg) (vs : List Byte) :
    (s.setRegsTo x vs).reg r = if r ≤ x then vs.getD r.val 0 else s.reg r := by
  simp [State.setRegsTo, State.reg]

/-- After a flag-writing instruction VF is the flag, whatever `x` is (R91). -/
@[simp] theorem State.reg_setRegThenFlag_VF (s : State) (x : Reg) (v : Byte) (b : Bool) :
    (s.setRegThenFlag x v b).reg VF = flagByte b := by
  rw [State.setRegThenFlag, State.reg_setReg_same]

/-- After a flag-writing instruction `V[x]` is the result, unless `x` is VF (R91). -/
theorem State.reg_setRegThenFlag_dest (s : State) {x : Reg} (v : Byte) (b : Bool) (h : x ≠ VF) :
    (s.setRegThenFlag x v b).reg x = v := by
  rw [State.setRegThenFlag, State.reg_setReg_ne _ _ h, State.reg_setReg_same]

/-- A flag-writing instruction leaves the other registers alone. -/
theorem State.reg_setRegThenFlag_other (s : State) {x r : Reg} (v : Byte) (b : Bool) (h : r ≠ x)
    (hf : r ≠ VF) : (s.setRegThenFlag x v b).reg r = s.reg r := by
  rw [State.setRegThenFlag, State.reg_setReg_ne _ _ hf, State.reg_setReg_ne _ _ h]

/-- The register dump holds `V[i]` at place `i` (R114). -/
theorem State.regsTo_getElem? (s : State) (x : Reg) (i : Reg) (h : i ≤ x) :
    (s.regsTo x)[i.val]? = some (s.reg i) := by
  have hi : i.val < x.val + 1 := Nat.lt_succ_of_le h
  simp [State.regsTo, State.reg, hi]

/-- The register dump has `x + 1` bytes (R114). -/
@[simp] theorem State.regsTo_length (s : State) (x : Reg) : (s.regsTo x).length = x.val + 1 := by
  simp [State.regsTo]

@[simp] theorem State.stackAt_setStackAt_same (s : State) (k : BitVec 4) (v : Word) :
    (s.setStackAt k v).stackAt k = v := by
  simp [State.stackAt]

theorem State.stackAt_setStackAt_ne (s : State) {k j : BitVec 4} (v : Word) (h : j ≠ k) :
    (s.setStackAt k v).stackAt j = s.stackAt j := by
  have h' : ¬ k.toNat = j.toNat := fun e => h (BitVec.eq_of_toNat_eq e.symm)
  simp [State.stackAt, h']

end Sys2Proof.Machine
end

