-- ==== Sys2Proof/Laws/Agents.lean ====
section
/-! SUPPORT. The Timer Clock, reset with a ROM, and the arrival of inputs (60_exceptions.md R180 to R182,
70_reset_and_hazards.md R190, 50_interfaces.md R142, R143). -/

namespace Sys2Proof.Machine

/-! ### Ticks -/

/-- One tick is the clamped decrement (R180). -/
theorem tickTimer_eq_countDown (v : Byte) : tickTimer v = countDown 1 v := by
  have := v.isLt
  by_cases hv : v = 0
  · simp [tickTimer, countDown, hv]
  · have h0 : v.toNat ≠ 0 := fun e => hv (BitVec.eq_of_toNat_eq e)
    apply BitVec.eq_of_toNat_eq
    rw [tickTimer, if_neg hv, countDown, BitVec.toNat_sub, BitVec.toNat_ofNat]
    simp
    omega

theorem countDown_toNat (n : Nat) (v : Byte) : (countDown n v).toNat = v.toNat - n := by
  have := v.isLt
  rw [countDown, BitVec.toNat_ofNat, Nat.mod_eq_of_lt (by omega)]

@[simp] theorem countDown_zero (v : Byte) : countDown 0 v = v := by
  apply BitVec.eq_of_toNat_eq
  rw [countDown_toNat, Nat.sub_zero]

/-- Ticks add up: `m` ticks and then `n` are `m + n`. -/
theorem countDown_countDown (m n : Nat) (v : Byte) : countDown n (countDown m v) = countDown (m + n) v := by
  apply BitVec.eq_of_toNat_eq
  rw [countDown_toNat, countDown_toNat, countDown_toNat]
  omega

/-- One tick, as the burst of one. -/
theorem State.tick_eq_ticks (s : State) : s.tick = s.ticks 1 := by
  simp only [State.tick, State.ticks, tickTimer_eq_countDown]

theorem State.ticks_ticks (s : State) (m n : Nat) : (s.ticks m).ticks n = s.ticks (m + n) := by
  simp only [State.ticks, State.setDT, State.setST, countDown_countDown]

/-- A burst of one more tick is one tick and then the rest of the burst (R148). -/
theorem State.ticks_succ (s : State) (n : Nat) : s.ticks (n + 1) = s.tick.ticks n := by
  rw [State.tick_eq_ticks, State.ticks_ticks, Nat.add_comm]

/-! ### Reset -/

/-- The bytes that a reset loads fit the program area (R31, R150). -/
theorem loadedImage_fits (rom : List Byte) (n : Nat) :
    loadAddress + (loadedImage rom n).length ≤ memSize := by
  unfold loadedImage loadAddress memSize maxRomLength
  split
  · omega
  · rw [List.length_take]; omega

theorem State.resetWith_mem_wf (s : State) (rom : List Byte) :
    (s.resetWith rom).mem.wf (s.resetWith rom).cfg = true :=
  Memory.wf_image (loadedImage_fits rom s.seq)

@[simp] theorem State.resetWith_cfg (s : State) (rom : List Byte) : (s.resetWith rom).cfg = s.cfg := rfl
@[simp] theorem State.resetWith_pc (s : State) (rom : List Byte) : (s.resetWith rom).pc = 0x200#16 := rfl
@[simp] theorem State.resetWith_I (s : State) (rom : List Byte) : (s.resetWith rom).I = 0 := rfl
@[simp] theorem State.resetWith_sp (s : State) (rom : List Byte) : (s.resetWith rom).sp = 0 := rfl
@[simp] theorem State.resetWith_DT (s : State) (rom : List Byte) : (s.resetWith rom).DT = 0 := rfl
@[simp] theorem State.resetWith_ST (s : State) (rom : List Byte) : (s.resetWith rom).ST = 0 := rfl
@[simp] theorem State.resetWith_fbPush (s : State) (rom : List Byte) : (s.resetWith rom).fbPush = false := rfl
@[simp] theorem State.resetWith_now (s : State) (rom : List Byte) : (s.resetWith rom).now = s.now := rfl
@[simp] theorem State.resetWith_later (s : State) (rom : List Byte) : (s.resetWith rom).later = s.later := rfl
@[simp] theorem State.resetWith_fault (s : State) (rom : List Byte) :
    (s.resetWith rom).fault = resetLatch rom := rfl
@[simp] theorem State.resetWith_fb (s : State) (rom : List Byte) :
    (s.resetWith rom).fb = Frame.blank s.cfg.fbWidth s.cfg.fbHeight := rfl

@[simp] theorem State.resetWith_reg (s : State) (rom : List Byte) (r : Reg) : (s.resetWith rom).reg r = 0 := by
  have h : (s.resetWith rom).V = Vector.replicate 16 0x00 := rfl
  simp [State.reg, h]

@[simp] theorem State.resetWith_stackAt (s : State) (rom : List Byte) (k : BitVec 4) :
    (s.resetWith rom).stackAt k = 0 := by
  have h : (s.resetWith rom).stack = Vector.replicate 16 0x0000 := rfl
  simp [State.stackAt, h]

@[simp] theorem State.resetWith_rst (s : State) (rom : List Byte) : (s.resetWith rom).rst = false := rfl

/-- A reset with the empty ROM, at the default parameters and inputs, leaves `State.reset`. -/
theorem State.resetWith_nil : State.reset.resetWith [] = State.reset := rfl

/-! ### The assertion of `rst` -/

/-- The release of `rst` leaves the state that its assertion built (R141). -/
@[simp] theorem State.assertReset_setRst (s : State) (rom : List Byte) :
    (s.assertReset rom).setRst false = s.resetWith rom := rfl

@[simp] theorem State.assertReset_cfg (s : State) (rom : List Byte) : (s.assertReset rom).cfg = s.cfg := rfl
@[simp] theorem State.assertReset_pc (s : State) (rom : List Byte) : (s.assertReset rom).pc = 0x200#16 := rfl
@[simp] theorem State.assertReset_I (s : State) (rom : List Byte) : (s.assertReset rom).I = 0 := rfl
@[simp] theorem State.assertReset_sp (s : State) (rom : List Byte) : (s.assertReset rom).sp = 0 := rfl
@[simp] theorem State.assertReset_DT (s : State) (rom : List Byte) : (s.assertReset rom).DT = 0 := rfl
@[simp] theorem State.assertReset_ST (s : State) (rom : List Byte) : (s.assertReset rom).ST = 0 := rfl
@[simp] theorem State.assertReset_fbPush (s : State) (rom : List Byte) :
    (s.assertReset rom).fbPush = false := rfl
@[simp] theorem State.assertReset_rst (s : State) (rom : List Byte) : (s.assertReset rom).rst = true := rfl
@[simp] theorem State.assertReset_now (s : State) (rom : List Byte) : (s.assertReset rom).now = s.now := rfl
@[simp] theorem State.assertReset_later (s : State) (rom : List Byte) :
    (s.assertReset rom).later = s.later := rfl
@[simp] theorem State.assertReset_fault (s : State) (rom : List Byte) :
    (s.assertReset rom).fault = resetLatch rom := rfl
@[simp] theorem State.assertReset_fb (s : State) (rom : List Byte) :
    (s.assertReset rom).fb = Frame.blank s.cfg.fbWidth s.cfg.fbHeight := rfl
@[simp] theorem State.assertReset_reg (s : State) (rom : List Byte) (r : Reg) :
    (s.assertReset rom).reg r = 0 := State.resetWith_reg s rom r
@[simp] theorem State.assertReset_stackAt (s : State) (rom : List Byte) (k : BitVec 4) :
    (s.assertReset rom).stackAt k = 0 := State.resetWith_stackAt s rom k

/-- The assertion of `rst` leaves the memory that reset with that ROM leaves. -/
theorem State.assertReset_mem (s : State) (rom : List Byte) : (s.assertReset rom).mem = (s.resetWith rom).mem := rfl

/-- The state that `rst` leaves does not depend on the machine before it: two states with the same parameters,
inputs and count of free values give the same one (R192). -/
theorem State.assertReset_congr {s u : State} (rom : List Byte) (hc : s.cfg = u.cfg) (hn : s.now = u.now)
    (hl : s.later = u.later) (hq : s.seq = u.seq) : s.assertReset rom = u.assertReset rom := by
  simp only [State.assertReset, State.resetWith, hc, hn, hl, hq]

/-! ### The inputs of a step -/

@[simp] theorem State.hostEvents_nil (s : State) : s.hostEvents [] = s := rfl

@[simp] theorem State.hostEvents_cons (s : State) (e : HostEvent) (es : List HostEvent) :
    s.hostEvents (e :: es) = (s.hostEvent e).hostEvents es := rfl

@[simp] theorem State.hostEvents_append (s : State) (es fs : List HostEvent) :
    s.hostEvents (es ++ fs) = (s.hostEvents es).hostEvents fs := by
  induction es generalizing s with
  | nil => rfl
  | cons e es ih => exact ih (s.hostEvent e)

/-- Package of an induction: a property that ticks and both changes of `rst` keep is kept by every run of
events. -/
theorem State.hostEvents_keep {P : State → Prop} (ht : ∀ s n, P s → P (s.ticks n))
    (ha : ∀ s rom, P s → P (s.assertReset rom)) (hr : ∀ s, P s → P (s.setRst false)) :
    ∀ (es : List HostEvent) (s : State), P s → P (s.hostEvents es)
  | [], _, h => h
  | .ticks n :: es, s, h => State.hostEvents_keep ht ha hr es (s.ticks n) (ht s n h)
  | .assertReset rom :: es, s, h => State.hostEvents_keep ht ha hr es (s.assertReset rom) (ha s rom h)
  | .releaseReset :: es, s, h => State.hostEvents_keep ht ha hr es (s.setRst false) (hr s h)

/-- The events before a step read the state and write no input: neither the coming step's nor a later
one's. -/
theorem State.hostEvents_inputs (s : State) (es : List HostEvent) :
    (s.hostEvents es).now = s.now ∧ (s.hostEvents es).later = s.later ∧ (s.hostEvents es).cfg = s.cfg :=
  State.hostEvents_keep (P := fun t => t.now = s.now ∧ t.later = s.later ∧ t.cfg = s.cfg)
    (fun _ _ h => h) (fun _ _ h => h) (fun _ h => h) es s ⟨rfl, rfl, rfl⟩

/-- What the arrival of the next inputs can do: it writes the model's input fields only. -/
theorem State.nextInput_eq (s : State) :
    ∃ n l q, s.nextInput = { s with now := n, later := l, seq := q } := by
  unfold State.nextInput
  cases s.later with
  | nil => exact ⟨freeInput s.seq, [], s.seq + 1, rfl⟩
  | cons i rest => exact ⟨i, rest, s.seq, rfl⟩

end Sys2Proof.Machine
end

