-- ==== Sys2Proof/Laws/Decode.lean ====
section
/-! SUPPORT. The fields of an opcode as arithmetic on its number, and the fields of the encoder's formats
(30_encoding.md R51 to R53). -/

namespace Sys2Proof

/-! ### Fields as arithmetic -/

theorem familyOf_val (op : Word) : (familyOf op).val = op.toNat / 4096 % 16 := by
  simp [familyOf, Nat.shiftRight_eq_div_pow]

theorem xOf_val (op : Word) : (xOf op).val = op.toNat / 256 % 16 := by
  simp [xOf, Nat.shiftRight_eq_div_pow]

theorem yOf_val (op : Word) : (yOf op).val = op.toNat / 16 % 16 := by
  simp [yOf, Nat.shiftRight_eq_div_pow]

theorem nOf_val (op : Word) : (nOf op).val = op.toNat % 16 := by
  simp [nOf]

theorem kkOf_toNat (op : Word) : (kkOf op).toNat = op.toNat % 256 := by
  simp [kkOf]

theorem nnnOf_toNat (op : Word) : (nnnOf op).toNat = op.toNat % 4096 := by
  simp [nnnOf]

/-- The two bytes of an opcode, high byte first, form it again (R33). -/
@[simp] theorem opcodeOf_bytes (op : Word) : opcodeOf (hiByte op) (loByte op) = op := by
  have := op.isLt
  apply BitVec.eq_of_toNat_eq
  simp [opcodeOf, hiByte, loByte, Nat.shiftRight_eq_div_pow]
  omega

/-! ### Fields of the formats -/

theorem formatA_toNat {f : Nat} (hf : f < 16) (nnn : Addr12) :
    (formatA f nnn).toNat = f * 4096 + nnn.toNat := by
  have := nnn.isLt
  simp [formatA]
  omega

theorem formatXK_toNat {f : Nat} (hf : f < 16) (x : Reg) (kk : Byte) :
    (formatXK f x kk).toNat = f * 4096 + x.val * 256 + kk.toNat := by
  have := kk.isLt
  have := x.isLt
  simp [formatXK]
  omega

theorem formatXYN_toNat {f : Nat} (hf : f < 16) (x y : Reg) (n : Fin 16) :
    (formatXYN f x y n).toNat = f * 4096 + x.val * 256 + y.val * 16 + n.val := by
  have := x.isLt
  have := y.isLt
  have := n.isLt
  simp [formatXYN]
  omega

theorem familyOf_formatA {f : Nat} (hf : f < 16) (nnn : Addr12) : (familyOf (formatA f nnn)).val = f := by
  have := nnn.isLt
  rw [familyOf_val, formatA_toNat hf]; omega

theorem nnnOf_formatA {f : Nat} (hf : f < 16) (nnn : Addr12) : nnnOf (formatA f nnn) = nnn := by
  have := nnn.isLt
  apply BitVec.eq_of_toNat_eq
  rw [nnnOf_toNat, formatA_toNat hf]; omega

theorem familyOf_formatXK {f : Nat} (hf : f < 16) (x : Reg) (kk : Byte) :
    (familyOf (formatXK f x kk)).val = f := by
  have := kk.isLt
  have := x.isLt
  rw [familyOf_val, formatXK_toNat hf]; omega

theorem xOf_formatXK {f : Nat} (hf : f < 16) (x : Reg) (kk : Byte) : xOf (formatXK f x kk) = x := by
  have := kk.isLt
  have := x.isLt
  apply Fin.ext
  rw [xOf_val, formatXK_toNat hf]; omega

theorem kkOf_formatXK {f : Nat} (hf : f < 16) (x : Reg) (kk : Byte) : kkOf (formatXK f x kk) = kk := by
  have := kk.isLt
  have := x.isLt
  apply BitVec.eq_of_toNat_eq
  rw [kkOf_toNat, formatXK_toNat hf]; omega

theorem familyOf_formatXYN {f : Nat} (hf : f < 16) (x y : Reg) (n : Fin 16) :
    (familyOf (formatXYN f x y n)).val = f := by
  have := x.isLt
  have := y.isLt
  have := n.isLt
  rw [familyOf_val, formatXYN_toNat hf]; omega

theorem xOf_formatXYN {f : Nat} (hf : f < 16) (x y : Reg) (n : Fin 16) : xOf (formatXYN f x y n) = x := by
  have := x.isLt
  have := y.isLt
  have := n.isLt
  apply Fin.ext
  rw [xOf_val, formatXYN_toNat hf]; omega

theorem yOf_formatXYN {f : Nat} (hf : f < 16) (x y : Reg) (n : Fin 16) : yOf (formatXYN f x y n) = y := by
  have := x.isLt
  have := y.isLt
  have := n.isLt
  apply Fin.ext
  rw [yOf_val, formatXYN_toNat hf]; omega

theorem nOf_formatXYN {f : Nat} (hf : f < 16) (x y : Reg) (n : Fin 16) : nOf (formatXYN f x y n) = n := by
  have := x.isLt
  have := y.isLt
  have := n.isLt
  apply Fin.ext
  rw [nOf_val, formatXYN_toNat hf]; omega

/-! ### The masks of the opcode map (R55) -/

theorem lt_16_cases {i : Nat} (h : i < 16) :
    i = 0 ∨ i = 1 ∨ i = 2 ∨ i = 3 ∨ i = 4 ∨ i = 5 ∨ i = 6 ∨ i = 7 ∨ i = 8 ∨ i = 9 ∨ i = 10 ∨
      i = 11 ∨ i = 12 ∨ i = 13 ∨ i = 14 ∨ i = 15 := by omega

/-- Masked with F000 a word keeps its family. -/
theorem and_F000 (op : Word) : op &&& 0xF000#16 = BitVec.ofNat 16 ((familyOf op).val * 4096) := by
  have h : op &&& 0xF000#16 = (op >>> 12) <<< 12 := by
    ext i hi
    rcases lt_16_cases hi with h | h | h | h | h | h | h | h | h | h | h | h | h | h | h | h <;> subst h <;> simp
  have := op.isLt
  apply BitVec.eq_of_toNat_eq
  rw [h, BitVec.toNat_ofNat, familyOf_val]
  simp [Nat.shiftRight_eq_div_pow, Nat.shiftLeft_eq]
  omega

/-- Masked with F00F a word keeps its family and its last nibble. -/
theorem and_F00F (op : Word) :
    op &&& 0xF00F#16 = BitVec.ofNat 16 ((familyOf op).val * 4096 + (nOf op).val) := by
  have h : op &&& 0xF00F#16 = ((op >>> 12) <<< 12) + (op &&& 0x000F#16) := by
    rw [BitVec.add_eq_or_of_and_eq_zero]
    · ext i hi
      rcases lt_16_cases hi with h | h | h | h | h | h | h | h | h | h | h | h | h | h | h | h <;> subst h <;> simp
    · ext i hi
      rcases lt_16_cases hi with h | h | h | h | h | h | h | h | h | h | h | h | h | h | h | h <;> subst h <;> simp
  have := op.isLt
  apply BitVec.eq_of_toNat_eq
  rw [h, BitVec.toNat_ofNat, familyOf_val, nOf_val]
  have hn : (op &&& 0x000F#16).toNat = op.toNat % 16 := by
    simpa using Nat.and_two_pow_sub_one_eq_mod op.toNat 4
  rw [BitVec.toNat_add, hn]
  simp [Nat.shiftRight_eq_div_pow, Nat.shiftLeft_eq]
  omega

/-- Masked with F0FF a word keeps its family and its low byte. -/
theorem and_F0FF (op : Word) :
    op &&& 0xF0FF#16 = BitVec.ofNat 16 ((familyOf op).val * 4096 + (kkOf op).toNat) := by
  have h : op &&& 0xF0FF#16 = ((op >>> 12) <<< 12) + (op &&& 0x00FF#16) := by
    rw [BitVec.add_eq_or_of_and_eq_zero]
    · ext i hi
      rcases lt_16_cases hi with h | h | h | h | h | h | h | h | h | h | h | h | h | h | h | h <;> subst h <;> simp
    · ext i hi
      rcases lt_16_cases hi with h | h | h | h | h | h | h | h | h | h | h | h | h | h | h | h <;> subst h <;> simp
  have := op.isLt
  apply BitVec.eq_of_toNat_eq
  rw [h, BitVec.toNat_ofNat, familyOf_val, kkOf_toNat]
  have hn : (op &&& 0x00FF#16).toNat = op.toNat % 256 := by
    simpa using Nat.and_two_pow_sub_one_eq_mod op.toNat 8
  rw [BitVec.toNat_add, hn]
  simp [Nat.shiftRight_eq_div_pow, Nat.shiftLeft_eq]
  omega

end Sys2Proof
end

