-- ==== Sys2Proof/Laws/Ops.lean ====
section
/-! SUPPORT. What each shared operation can do, said once: an access with its range check, a fatal entry, a
skip, one step of the engine, and a step request. -/

namespace Sys2Proof.Machine

/-- `DataRangeOK` as an inequality on the end of the range (R38). -/
theorem dataRangeOK_iff (base len : Nat) : dataRangeOK base len = true ↔ len = 0 ∨ base + len ≤ memSize := by
  simp only [dataRangeOK, Bool.or_eq_true, beq_iff_eq, decide_eq_true_eq, memSize]
  omega

/-- An access whose range is inside memory is made (R38). -/
theorem withDataRange_ok {len : Nat} {i : Instr} {s : State} {access : State → Result}
    (h : dataRangeOK s.I.toNat len = true) : withDataRange len i s access = access s := by
  simp [withDataRange, h]

/-- An access whose range is not inside memory raises `DATA_OOB` (R165). -/
theorem withDataRange_oob {len : Nat} {i : Instr} {s : State} {access : State → Result}
    (h : dataRangeOK s.I.toNat len = false) :
    withDataRange len i s access = .next (s.raiseFatal .dataOob (encode i)) := by
  simp [withDataRange, h, fatal]

/-- Both cases of an access at once. -/
theorem withDataRange_cases (len : Nat) (i : Instr) (s : State) (access : State → Result) :
    (dataRangeOK s.I.toNat len = true ∧ withDataRange len i s access = access s) ∨
    (dataRangeOK s.I.toNat len = false ∧
      withDataRange len i s access = .next (s.raiseFatal .dataOob (encode i))) := by
  cases h : dataRangeOK s.I.toNat len
  · exact .inr ⟨rfl, withDataRange_oob h⟩
  · exact .inl ⟨rfl, withDataRange_ok h⟩

/-- Consecutive bytes written from `I`: what every address reads as afterwards (R34). -/
theorem State.readByte_writeAtI {s : State} {bs : List Byte} (hwf : s.mem.wf s.cfg = true)
    (hb : s.I.toNat + bs.length ≤ memSize) (a : Nat) :
    (s.writeAtI bs).readByte a =
      if h : s.I.toNat ≤ a ∧ a - s.I.toNat < bs.length then bs[a - s.I.toNat]'h.2 else s.readByte a :=
  Memory.read_writeBytes a hb hwf

/-- A write from `I` keeps memory in its canonical form. -/
theorem State.writeAtI_mem_wf {s : State} {bs : List Byte} (hwf : s.mem.wf s.cfg = true)
    (hb : s.I.toNat + bs.length ≤ memSize) : (s.writeAtI bs).mem.wf (s.writeAtI bs).cfg = true :=
  Memory.wf_writeBytes hb hwf

/-- Byte `i` of what is read from `I` is the byte at `I + i` (R34). -/
theorem State.readAtI_getElem? (s : State) {len i : Nat} (h : i < len) :
    (s.readAtI len)[i]? = some (s.readByte (s.I.toNat + i)) :=
  Memory.readBytes_getElem? s.cfg s.mem len s.I.toNat i h

@[simp] theorem State.readAtI_length (s : State) (len : Nat) : (s.readAtI len).length = len :=
  Memory.readBytes_length s.cfg s.mem s.I.toNat len

/-- A fetch succeeds exactly when both bytes are inside memory (R71). -/
theorem State.fetch_eq_none_iff (s : State) : s.fetch = none ↔ 0xFFE < s.pc.toNat := by
  unfold State.fetch lastFetch
  split <;> simp <;> omega

theorem State.fetch_eq_some {s : State} (h : s.pc.toNat ≤ 0xFFE) :
    s.fetch = some (opcodeOf (s.readByte s.pc.toNat) (s.readByte (s.pc.toNat + 1))) := by
  simp [State.fetch, lastFetch, h]

/-- Everything one step of the engine can do: nothing when a fault is latched, `FETCH_OOB` when the fetch
fails, otherwise the instruction fetched (R70). -/
theorem engineStep_cases (s : State) :
    (s.fault.valid = true ∧ engineStep s = .next s) ∨
    (s.fault.valid = false ∧ s.fetch = none ∧ engineStep s = .next (s.raiseFatal .fetchOob 0x0000)) ∨
    (∃ op, s.fault.valid = false ∧ s.fetch = some op ∧ engineStep s = exec (decodeWord op) s) := by
  unfold engineStep
  cases hv : s.fault.valid
  · cases hf : s.fetch with
    | none => exact .inr (.inl ⟨rfl, rfl, by simp⟩)
    | some op => exact .inr (.inr ⟨op, rfl, rfl, by simp⟩)
  · exact .inl ⟨rfl, by simp⟩

/-- Everything the engine can do on a request: nothing while `rst` is asserted, otherwise one step (R142). -/
theorem requestedStep_cases (s : State) :
    (s.rst = true ∧ requestedStep s = .next s) ∨ (s.rst = false ∧ requestedStep s = engineStep s) := by
  unfold requestedStep
  cases s.rst
  · exact .inr ⟨rfl, rfl⟩
  · exact .inl ⟨rfl, rfl⟩

/-- A step request that answers a next state: the engine answered one, and the next inputs arrived. -/
theorem stepRequest_next {s t : State} (h : stepRequest s = .next t) :
    ∃ u, requestedStep s.beginStep = .next u ∧ t = u.nextInput := by
  unfold stepRequest at h
  cases e : requestedStep s.beginStep with
  | next u => rw [e] at h; exact ⟨u, rfl, (Host.Outcome.next.inj h).symm⟩
  | fault r => rw [e] at h; cases h
  | refused r => rw [e] at h; cases h

end Sys2Proof.Machine
end

