-- ==== Sys2Proof/Laws/Exec.lean ====
section
/-! SUPPORT. The shapes the meanings come in, said once: a register write with sequential flow, a flag write
with sequential flow, and the instructions that access memory through `I`. -/

namespace Sys2Proof.Machine

/-- An instruction that writes one register and goes on: its result and its whole frame. -/
theorem sequential_setReg (s : State) (x : Reg) (v : Byte) :
    ∃ t, sequential (s.setReg x v) = .next t ∧ s.onlyRegisters t ∧ s.registersBut [x] t ∧ t.reg x = v :=
  ⟨_, rfl, rfl, fun r hr => by
    rw [List.mem_singleton] at hr
    simp [State.advance, State.reg_setReg_ne _ _ hr], by simp [State.advance]⟩

/-- An instruction that writes a result and then its flag and goes on (R91). -/
theorem sequential_setRegThenFlag (s : State) (x : Reg) (v : Byte) (b : Bool) :
    ∃ t, sequential (s.setRegThenFlag x v b) = .next t ∧ s.onlyRegisters t ∧ s.registersBut [x, VF] t ∧
      t.reg VF = flagByte b ∧ (x ≠ VF → t.reg x = v) :=
  ⟨_, rfl, rfl, fun r hr => by
    simp only [List.mem_cons, List.not_mem_nil, or_false, not_or] at hr
    simp [State.advance, State.reg_setRegThenFlag_other _ _ _ hr.1 hr.2],
    by simp [State.advance], fun h => by simp [State.advance, State.reg_setRegThenFlag_dest _ _ _ h]⟩

theorem exec_ldB (x : Reg) (s : State) :
    exec (.ldB x) s =
      withDataRange 3 (.ldB x) s fun s => sequential (s.writeAtI (decimalDigits (s.reg x))) := rfl

theorem exec_dumpRegs (x : Reg) (s : State) :
    exec (.dumpRegs x) s =
      withDataRange (x.val + 1) (.dumpRegs x) s fun s => sequential (s.writeAtI (s.regsTo x)) := rfl

theorem exec_loadRegs (x : Reg) (s : State) :
    exec (.loadRegs x) s =
      withDataRange (x.val + 1) (.loadRegs x) s fun s => sequential (s.setRegsTo x (s.readAtI (x.val + 1))) :=
  rfl

theorem exec_drw (x y : Reg) (n : Fin 16) (s : State) :
    exec (.drw x y n) s =
      withDataRange n.val (.drw x y n) s fun s =>
        sequential ((s.setFb (drawn x y n s).1).setReg VF (flagByte (drawn x y n s).2)).pushDisplay := rfl

/-- The pixels DRW toggles are those its sprite covers (R122). -/
theorem mem_spritePixels_iff_covers {s : State} {x y : Reg} {n r c : Nat} :
    (r, c) ∈ spritePixels s.cfg.fbWidth s.cfg.fbHeight (s.reg x).toNat (s.reg y).toNat 0 (s.readAtI n) ↔
      s.spriteCovers x y n r c := by
  have hb : ∀ i (hi : i < (s.readAtI n).length), (s.readAtI n)[i] = s.readByte (s.I.toNat + i) := by
    intro i hi
    have := State.readAtI_getElem? s (len := n) (i := i) (by simpa using hi)
    rw [List.getElem?_eq_getElem hi] at this
    exact Option.some.inj this
  rw [mem_spritePixels, State.spriteCovers]
  constructor
  · rintro ⟨i, hi, col, h1, h2, h3⟩
    rw [hb] at h2
    exact ⟨i, col, by simpa using hi, h1, h2, by simpa using (Prod.mk.inj h3).1, (Prod.mk.inj h3).2⟩
  · rintro ⟨i, col, hi, h1, h2, rfl, rfl⟩
    exact ⟨i, by simpa using hi, col, h1, by rw [hb]; exact h2, by simp⟩

end Sys2Proof.Machine
end

