-- ==== Sys2Proof/Laws/PerInstr.lean ====
section
/-! SUPPORT. Statements about every instruction as syntax, one lemma per constructor. -/

namespace Sys2Proof.Laws.EncodesItsRow

/-- The word of an instruction selects the instruction's own row of the opcode map: `op & mask = match`
(30_encoding.md R55). -/
def Statement (i : Instr) : Prop := rowMatches (encode i) (opcodeMap.getD (i.row - 1) (0, 1)) = true

theorem cls : Statement .cls := rfl

theorem ret : Statement .ret := rfl

theorem sys (nnn : Addr12) : Statement (.sys nnn) := by
  simp [Statement, rowMatches, encode, Instr.row, opcodeMap, and_F000, familyOf_formatA]

theorem jp (nnn : Addr12) : Statement (.jp nnn) := by
  simp [Statement, rowMatches, encode, Instr.row, opcodeMap, and_F000, familyOf_formatA]

theorem call (nnn : Addr12) : Statement (.call nnn) := by
  simp [Statement, rowMatches, encode, Instr.row, opcodeMap, and_F000, familyOf_formatA]

theorem seImm (x : Reg) (kk : Byte) : Statement (.seImm x kk) := by
  simp [Statement, rowMatches, encode, Instr.row, opcodeMap, and_F000, familyOf_formatXK]

theorem sneImm (x : Reg) (kk : Byte) : Statement (.sneImm x kk) := by
  simp [Statement, rowMatches, encode, Instr.row, opcodeMap, and_F000, familyOf_formatXK]

theorem seReg (x : Reg) (y : Reg) : Statement (.seReg x y) := by
  simp [Statement, rowMatches, encode, Instr.row, opcodeMap, and_F00F, familyOf_formatXYN, nOf_formatXYN]

theorem ldImm (x : Reg) (kk : Byte) : Statement (.ldImm x kk) := by
  simp [Statement, rowMatches, encode, Instr.row, opcodeMap, and_F000, familyOf_formatXK]

theorem addImm (x : Reg) (kk : Byte) : Statement (.addImm x kk) := by
  simp [Statement, rowMatches, encode, Instr.row, opcodeMap, and_F000, familyOf_formatXK]

theorem ldReg (x : Reg) (y : Reg) : Statement (.ldReg x y) := by
  simp [Statement, rowMatches, encode, Instr.row, opcodeMap, and_F00F, familyOf_formatXYN, nOf_formatXYN]

theorem orReg (x : Reg) (y : Reg) : Statement (.orReg x y) := by
  simp [Statement, rowMatches, encode, Instr.row, opcodeMap, and_F00F, familyOf_formatXYN, nOf_formatXYN]

theorem andReg (x : Reg) (y : Reg) : Statement (.andReg x y) := by
  simp [Statement, rowMatches, encode, Instr.row, opcodeMap, and_F00F, familyOf_formatXYN, nOf_formatXYN]

theorem xorReg (x : Reg) (y : Reg) : Statement (.xorReg x y) := by
  simp [Statement, rowMatches, encode, Instr.row, opcodeMap, and_F00F, familyOf_formatXYN, nOf_formatXYN]

theorem addReg (x : Reg) (y : Reg) : Statement (.addReg x y) := by
  simp [Statement, rowMatches, encode, Instr.row, opcodeMap, and_F00F, familyOf_formatXYN, nOf_formatXYN]

theorem subReg (x : Reg) (y : Reg) : Statement (.subReg x y) := by
  simp [Statement, rowMatches, encode, Instr.row, opcodeMap, and_F00F, familyOf_formatXYN, nOf_formatXYN]

theorem shr (x : Reg) (y : Reg) : Statement (.shr x y) := by
  simp [Statement, rowMatches, encode, Instr.row, opcodeMap, and_F00F, familyOf_formatXYN, nOf_formatXYN]

theorem subnReg (x : Reg) (y : Reg) : Statement (.subnReg x y) := by
  simp [Statement, rowMatches, encode, Instr.row, opcodeMap, and_F00F, familyOf_formatXYN, nOf_formatXYN]

theorem shl (x : Reg) (y : Reg) : Statement (.shl x y) := by
  simp [Statement, rowMatches, encode, Instr.row, opcodeMap, and_F00F, familyOf_formatXYN, nOf_formatXYN]

theorem sneReg (x : Reg) (y : Reg) : Statement (.sneReg x y) := by
  simp [Statement, rowMatches, encode, Instr.row, opcodeMap, and_F00F, familyOf_formatXYN, nOf_formatXYN]

theorem ldI (nnn : Addr12) : Statement (.ldI nnn) := by
  simp [Statement, rowMatches, encode, Instr.row, opcodeMap, and_F000, familyOf_formatA]

theorem jpV0 (nnn : Addr12) : Statement (.jpV0 nnn) := by
  simp [Statement, rowMatches, encode, Instr.row, opcodeMap, and_F000, familyOf_formatA]

theorem rnd (x : Reg) (kk : Byte) : Statement (.rnd x kk) := by
  simp [Statement, rowMatches, encode, Instr.row, opcodeMap, and_F000, familyOf_formatXK]

theorem drw (x : Reg) (y : Reg) (n : Fin 16) : Statement (.drw x y n) := by
  simp [Statement, rowMatches, encode, Instr.row, opcodeMap, and_F000, familyOf_formatXYN]

theorem skp (x : Reg) : Statement (.skp x) := by
  simp [Statement, rowMatches, encode, Instr.row, opcodeMap, and_F0FF, familyOf_formatXK, kkOf_formatXK]

theorem sknp (x : Reg) : Statement (.sknp x) := by
  simp [Statement, rowMatches, encode, Instr.row, opcodeMap, and_F0FF, familyOf_formatXK, kkOf_formatXK]

theorem ldVxDT (x : Reg) : Statement (.ldVxDT x) := by
  simp [Statement, rowMatches, encode, Instr.row, opcodeMap, and_F0FF, familyOf_formatXK, kkOf_formatXK]

theorem ldVxK (x : Reg) : Statement (.ldVxK x) := by
  simp [Statement, rowMatches, encode, Instr.row, opcodeMap, and_F0FF, familyOf_formatXK, kkOf_formatXK]

theorem ldDTVx (x : Reg) : Statement (.ldDTVx x) := by
  simp [Statement, rowMatches, encode, Instr.row, opcodeMap, and_F0FF, familyOf_formatXK, kkOf_formatXK]

theorem ldSTVx (x : Reg) : Statement (.ldSTVx x) := by
  simp [Statement, rowMatches, encode, Instr.row, opcodeMap, and_F0FF, familyOf_formatXK, kkOf_formatXK]

theorem addI (x : Reg) : Statement (.addI x) := by
  simp [Statement, rowMatches, encode, Instr.row, opcodeMap, and_F0FF, familyOf_formatXK, kkOf_formatXK]

theorem ldF (x : Reg) : Statement (.ldF x) := by
  simp [Statement, rowMatches, encode, Instr.row, opcodeMap, and_F0FF, familyOf_formatXK, kkOf_formatXK]

theorem ldB (x : Reg) : Statement (.ldB x) := by
  simp [Statement, rowMatches, encode, Instr.row, opcodeMap, and_F0FF, familyOf_formatXK, kkOf_formatXK]

theorem dumpRegs (x : Reg) : Statement (.dumpRegs x) := by
  simp [Statement, rowMatches, encode, Instr.row, opcodeMap, and_F0FF, familyOf_formatXK, kkOf_formatXK]

theorem loadRegs (x : Reg) : Statement (.loadRegs x) := by
  simp [Statement, rowMatches, encode, Instr.row, opcodeMap, and_F0FF, familyOf_formatXK, kkOf_formatXK]

theorem nop (word : Word) : Statement (.nop word) := by
  simp [Statement, rowMatches, Instr.row, opcodeMap]

end Sys2Proof.Laws.EncodesItsRow
end

