-- ==== Sys2Proof/Tests/Slice0.lean ====
section
/-! SUPPORT. Tests of one step each, and a witness for every statement that has hypotheses. The expected
results are the rows of 95_test_vectors.md, named in each docstring, or the encodings of 30_encoding.md
R55 written out digit by digit. -/

namespace Sys2Proof.Tests

open Sys2Proof Sys2Proof.Machine

/-! ### Helpers -/

/-- The reset state with a word placed at 0x200. -/
def word (op : Nat) : State := State.reset.withFetchWord 16 op

/-- The reset state with `pc` elsewhere and a word placed there. -/
def wordAt (pc : Word) (op : Nat) : State := ({ State.reset with pc := pc } : State).withFetchWord 16 op

/-- `s` with some registers preset. -/
def regs (s : State) : List (Reg × Byte) → State
  | [] => s
  | (x, v) :: rest => regs (s.setReg x v) rest

/-- `s` with some bytes of memory preset. -/
def bytes (s : State) (a : Nat) (bs : List Byte) : State := s.setMem (s.mem.writeBytes s.cfg a bs)

/-- `s` with some pixels set. -/
def pixels (s : State) : List (Nat × Nat) → State
  | [] => s
  | (r, c) :: rest => pixels (s.setFb (s.fb.toggle r c)) rest

/-- `s` with its key lines. -/
def keys (s : State) (k : Word) : State := { s with now := { s.now with keys := k } }

/-- The state after one step request. -/
def after (s : State) : State :=
  match step s with
  | .next t => t
  | .fault _ => s
  | .refused _ => s

/-! ### Well-formedness: what the checks refuse -/

/-- SYS may not carry CLS's or RET's word (R56). -/
theorem test_wf_refuses_sys : (Instr.sys 0x0E0).wf = false ∧ (Instr.sys 0x0EE).wf = false := by decide

/-- Row 36 may not carry a defined word: one of each family that has undefined ones (R57). -/
theorem test_wf_refuses_nop :
    (Instr.nop 0x5120).wf = false ∧ (Instr.nop 0x812E).wf = false ∧ (Instr.nop 0x9120).wf = false ∧
    (Instr.nop 0xE19E).wf = false ∧ (Instr.nop 0xF165).wf = false ∧ (Instr.nop 0x00E0).wf = false := by decide

theorem test_wf_accepts :
    (Instr.sys 0x0E1).wf = true ∧ (Instr.nop 0x8AB9).wf = true ∧ (Instr.nop 0x5121).wf = true := by decide

/-! ### Decoding: one word of every row, written out from the patterns of R55 -/

theorem test_decode_flow :
    decodeWord 0x00E0 = .cls ∧ decodeWord 0x00EE = .ret ∧ decodeWord 0x0123 = .sys 0x123 ∧
    decodeWord 0x1ABC = .jp 0xABC ∧ decodeWord 0x2300 = .call 0x300 ∧ decodeWord 0xB2F0 = .jpV0 0x2F0 := by
  decide

theorem test_decode_skips :
    decodeWord 0x332A = .seImm 3 0x2A ∧ decodeWord 0x4F01 = .sneImm 15 0x01 ∧
    decodeWord 0x5120 = .seReg 1 2 ∧ decodeWord 0x9AB0 = .sneReg 10 11 := by decide

theorem test_decode_immediates :
    decodeWord 0x6A2F = .ldImm 10 0x2F ∧ decodeWord 0x71FF = .addImm 1 0xFF ∧
    decodeWord 0xC30F = .rnd 3 0x0F ∧ decodeWord 0xA050 = .ldI 0x050 := by decide

theorem test_decode_alu :
    decodeWord 0x8120 = .ldReg 1 2 ∧ decodeWord 0x8121 = .orReg 1 2 ∧ decodeWord 0x8122 = .andReg 1 2 ∧
    decodeWord 0x8123 = .xorReg 1 2 ∧ decodeWord 0x8F24 = .addReg 15 2 ∧ decodeWord 0x81F5 = .subReg 1 15 ∧
    decodeWord 0x8126 = .shr 1 2 ∧ decodeWord 0x8127 = .subnReg 1 2 ∧ decodeWord 0x812E = .shl 1 2 := by
  decide

theorem test_decode_display_keys :
    decodeWord 0xD125 = .drw 1 2 5 ∧ decodeWord 0xE59E = .skp 5 ∧ decodeWord 0xEFA1 = .sknp 15 := by decide

theorem test_decode_family_F :
    decodeWord 0xF407 = .ldVxDT 4 ∧ decodeWord 0xF20A = .ldVxK 2 ∧ decodeWord 0xF415 = .ldDTVx 4 ∧
    decodeWord 0xF418 = .ldSTVx 4 ∧ decodeWord 0xF21E = .addI 2 ∧ decodeWord 0xF429 = .ldF 4 ∧
    decodeWord 0xF333 = .ldB 3 ∧ decodeWord 0xFF55 = .dumpRegs 15 ∧ decodeWord 0xF265 = .loadRegs 2 := by
  decide

theorem test_decode_undefined :
    decodeWord 0x8AB9 = .nop 0x8AB9 ∧ decodeWord 0x5125 = .nop 0x5125 ∧ decodeWord 0x912F = .nop 0x912F ∧
    decodeWord 0xE1A0 = .nop 0xE1A0 ∧ decodeWord 0xF156 = .nop 0xF156 := by decide

/-- T3, T4: the neighbours of CLS and RET are SYS. -/
theorem test_decode_sys_neighbours : decodeWord 0x00E1 = .sys 0x0E1 ∧ decodeWord 0x00EF = .sys 0x0EF := by
  decide

/-- An instruction is two bytes, the high one first (R33, R50); one byte is no instruction. -/
theorem test_decode_bytes :
    decodeBytes [0x6A, 0x2F, 0x00] = .ok (.ldImm 10 0x2F, [0x00]) ∧ decodeBytes [0x6A] = .error .truncated := by
  decide

theorem test_decode_table_word : decodeTableWord 16 0xD125 = some (.drw 1 2 5) := by decide

/-! ### Flow -/

/-- T1. -/
theorem test_sys : ((after (word 0x0123)).pc, (after (word 0x0123)).fault.valid) = (0x0202, false) := by decide

/-- T40. -/
theorem test_nop : (after (regs (word 0x8AB9) [(10, 0x0A), (15, 0x5A)])).pc = 0x0202 ∧
    (after (regs (word 0x8AB9) [(10, 0x0A), (15, 0x5A)])).reg VF = 0x5A := by decide

/-- T5. -/
theorem test_jp : (after (word 0x1ABC)).pc = 0x0ABC := by decide

/-- T12: the fifteenth nested call succeeds. -/
theorem test_call :
    let t := after { word 0x2300 with sp := 14 }
    (t.pc, t.sp, t.stackAt 14, t.fault.valid) = (0x0300, 15, 0x0202, false) := by decide

/-- T13: the sixteenth is fatal. -/
theorem test_call_overflow :
    let t := after { word 0x2300 with sp := 15 }
    (t.pc, t.sp, t.fault) = (0x0200, 15, { valid := true, cause := 2, addr := 0x0200, opcode := 0x2300 }) := by
  decide

/-- T15: the popped entry keeps its value. -/
theorem test_ret :
    let t := after { (wordAt 0x0300 0x00EE).setStackAt 0 0x0202 with sp := 1 }
    (t.pc, t.sp, t.stackAt 0) = (0x0202, 0, 0x0202) := by decide

/-- T17: the stale entry is not used. -/
theorem test_ret_underflow :
    let t := after ((wordAt 0x0300 0x00EE).setStackAt 0 0x0202)
    (t.pc, t.sp, t.fault) = (0x0300, 0, { valid := true, cause := 3, addr := 0x0300, opcode := 0x00EE }) := by
  decide

/-- T19, T20. -/
theorem test_se_imm : (after (regs (word 0x332A) [(3, 0x2A)])).pc = 0x0204 ∧
    (after (regs (word 0x332A) [(3, 0x2B)])).pc = 0x0202 := by decide

/-- T22, T23. -/
theorem test_sne_imm : (after (regs (word 0x432A) [(3, 0x2A)])).pc = 0x0202 ∧
    (after (word 0x432A)).pc = 0x0204 := by decide

/-- T24, T25. -/
theorem test_se_reg : (after (regs (word 0x5120) [(1, 7), (2, 7)])).pc = 0x0204 ∧
    (after (regs (word 0x5120) [(1, 7), (2, 8)])).pc = 0x0202 := by decide

/-- T27, T28. -/
theorem test_sne_reg : (after (regs (word 0x9120) [(1, 7), (2, 8)])).pc = 0x0204 ∧
    (after (regs (word 0x9120) [(1, 7), (2, 7)])).pc = 0x0202 := by decide

/-- T33: V2 is not used. -/
theorem test_jp_v0 : (after (regs (word 0xB2F0) [(0, 0x02), (2, 0x10)])).pc = 0x02F2 := by decide

/-- T34: not reduced to 12 bits. -/
theorem test_jp_v0_top : (after (regs (word 0xBFFF) [(0, 0xFF)])).pc = 0x10FE := by decide

/-- T10: the fetch at 0xFFF fails. -/
theorem test_fetch_fails :
    (after { State.reset with pc := 0x0FFF }).fault = { valid := true, cause := 1, addr := 0x0FFF, opcode := 0 } := by
  decide

/-- T37: the instruction at 0xFFE executes. -/
theorem test_fetch_top :
    let t := after (wordAt 0x0FFE 0x6111)
    (t.reg 1, t.pc, t.fault.valid) = (0x11, 0x1000, false) := by decide

/-- T8: an odd address is fetched from. -/
theorem test_fetch_odd :
    let t := after (bytes { State.reset with pc := 0x0203 } 0x203 [0x6A, 0x55])
    (t.reg 10, t.pc) = (0x55, 0x0205) := by decide

/-! ### Register file and ALU -/

/-- T57. -/
theorem test_ld_imm : (after (word 0x6A2F)).reg 10 = 0x2F := by decide

/-- T59: the carry is lost. -/
theorem test_add_imm :
    let t := after (regs (word 0x7102) [(1, 0xFF), (15, 0x5A)])
    (t.reg 1, t.reg VF, t.pc) = (0x01, 0x5A, 0x0202) := by decide

/-- T63. -/
theorem test_ld_reg : (after (regs (word 0x8120) [(2, 0x37)])).reg 1 = 0x37 := by decide

/-- T66: VF is not cleared. -/
theorem test_or :
    let t := after (regs (word 0x8121) [(1, 0x0F), (2, 0xF0), (15, 0x5A)])
    (t.reg 1, t.reg 2, t.reg VF) = (0xFF, 0xF0, 0x5A) := by decide

/-- T67. -/
theorem test_and :
    let t := after (regs (word 0x8122) [(1, 0x3C), (2, 0x0F), (15, 0x5A)])
    (t.reg 1, t.reg VF) = (0x0C, 0x5A) := by decide

/-- T68. -/
theorem test_xor :
    let t := after (regs (word 0x8123) [(1, 0xFF), (2, 0x0F), (15, 0x5A)])
    (t.reg 1, t.reg VF) = (0xF0, 0x5A) := by decide

/-- T71. -/
theorem test_add_reg :
    let t := after (regs (word 0x8124) [(1, 0xFF), (2, 0xFF)])
    (t.reg 1, t.reg VF, t.pc) = (0xFE, 1, 0x0202) := by decide

/-- T75: with `x` VF the flag overwrites the sum. -/
theorem test_add_reg_vf : (after (regs (word 0x8F24) [(2, 0xF5), (15, 0x10)])).reg VF = 1 := by decide

/-- T83. -/
theorem test_sub :
    let t := after (regs (word 0x8125) [(2, 0x01), (15, 0x01)])
    (t.reg 1, t.reg VF) = (0xFF, 0) := by decide

/-- T82: equal operands do not borrow. -/
theorem test_sub_equal :
    let t := after (regs (word 0x8125) [(1, 0x05), (2, 0x05)])
    (t.reg 1, t.reg VF) = (0x00, 1) := by decide

/-- T87. -/
theorem test_subn :
    let t := after (regs (word 0x8127) [(1, 0x03), (2, 0x05)])
    (t.reg 1, t.reg VF) = (0x02, 1) := by decide

/-- T90: with `x` VF the flag overwrites the difference. -/
theorem test_subn_vf : (after (regs (word 0x8F27) [(2, 0x09), (15, 0x02)])).reg VF = 1 := by decide

/-- T91: V2 is ignored. -/
theorem test_shr :
    let t := after (regs (word 0x8126) [(1, 0x05), (2, 0x08)])
    (t.reg 1, t.reg 2, t.reg VF) = (0x02, 0x08, 1) := by decide

/-- T92: the other value of SHIFT_SRC. -/
theorem test_shr_vy :
    let s := regs (word 0x8126) [(1, 0x05), (2, 0x08)]
    let t := after { s with cfg := { s.cfg with shiftSrc := .vy } }
    (t.reg 1, t.reg VF) = (0x04, 0) := by decide

/-- T100. -/
theorem test_shl :
    let t := after (regs (word 0x812E) [(1, 0x81), (2, 0x01)])
    (t.reg 1, t.reg VF) = (0x02, 1) := by decide

/-- T101: the other value of SHIFT_SRC. -/
theorem test_shl_vy :
    let s := regs (word 0x812E) [(1, 0x01), (2, 0xC0)]
    let t := after { s with cfg := { s.cfg with shiftSrc := .vy } }
    (t.reg 1, t.reg VF) = (0x80, 1) := by decide

/-- T106. -/
theorem test_rnd :
    let s := word 0xC30F
    (after { s with now := { s.now with rnd := 0xB7 } }).reg 3 = 0x07 := by decide

/-! ### Index register and memory -/

/-- T112. -/
theorem test_ld_i : (after { word 0xAFFF with I := 0x1234 }).I = 0x0FFF := by decide

/-- T114: 16-bit wrap; VF not written. -/
theorem test_add_i :
    let t := after { regs (word 0xF21E) [(2, 0x01), (15, 0x5A)] with I := 0xFFFF }
    (t.I, t.reg VF) = (0x0000, 0x5A) := by decide

/-- T115: past 0x0FFF there is no wrap and no fault. -/
theorem test_add_i_past_memory :
    let t := after { regs (word 0xF21E) [(2, 0x01)] with I := 0x0FFF }
    (t.I, t.fault.valid) = (0x1000, false) := by decide

/-- T117, T121: no mask. -/
theorem test_ld_f : (after (regs (word 0xF429) [(4, 0x0A)])).I = 0x0082 ∧
    (after (regs (word 0xF429) [(4, 0xFF)])).I = 0x054B := by decide

/-- T125: the last legal base. -/
theorem test_ld_b :
    let t := after { regs (word 0xF333) [(3, 0x7B)] with I := 0x0FFD }
    (t.readByte 0xFFD, t.readByte 0xFFE, t.readByte 0xFFF, t.I) = (1, 2, 3, 0x0FFD) := by decide

/-- T126: nothing is written. -/
theorem test_ld_b_oob :
    let t := after { regs (word 0xF333) [(3, 0x7B)] with I := 0x0FFE }
    (t.fault, t.readByte 0xFFE) = ({ valid := true, cause := 4, addr := 0x0200, opcode := 0xF333 }, 0) := by decide

/-- T128: V3 is not stored, and `I` stays. -/
theorem test_dump :
    let t := after { regs (word 0xF255) [(0, 0x11), (1, 0x22), (2, 0x33), (3, 0x44)] with I := 0x0400 }
    (t.readByte 0x400, t.readByte 0x401, t.readByte 0x402, t.readByte 0x403, t.I) =
      (0x11, 0x22, 0x33, 0x00, 0x0400) := by decide

/-- T134: `I + k` is not wrapped. -/
theorem test_dump_oob :
    (after { regs (word 0xF055) [(0, 0x11)] with I := 0xFFFF }).fault =
      { valid := true, cause := 4, addr := 0x0200, opcode := 0xF055 } := by decide

/-- T136: loading from the font. -/
theorem test_load :
    let t := after { regs (word 0xF465) [(5, 0x77)] with I := 0x0050 }
    (t.reg 0, t.reg 1, t.reg 4, t.reg 5) = (0xF0, 0x90, 0xF0, 0x77) := by decide

/-- T138: no register is loaded. (The two bytes in memory are left out.) -/
theorem test_load_oob :
    let t := after { regs (word 0xF265) [(0, 0x01)] with I := 0x0FFE }
    (t.fault.cause, t.reg 0, t.pc) = (4, 0x01, 0x0200) := by decide

/-! ### Display -/

/-- T139. -/
theorem test_cls :
    let t := after (pixels (regs (word 0x00E0) [(15, 0x5A)]) [(0, 0), (5, 7), (31, 63)])
    (t.fb.get 0 0, t.fb.get 5 7, t.fb.get 31 63, t.fbPush, t.reg VF) = (false, false, false, true, 0x5A) := by
  decide

/-- T146: one pixel erased, one set. -/
theorem test_drw_collision :
    let t := after (pixels (bytes { word 0xD001 with I := 0x0300 } 0x300 [0xC0]) [(0, 0)])
    (t.fb.get 0 0, t.fb.get 0 1, t.reg VF, t.fbPush) = (false, true, 1, true) := by decide

/-- E3: wrap in both directions, and no collision. -/
theorem test_drw_wrap :
    let t := after (bytes { regs (word 0xD122) [(1, 0x3F), (2, 0x1F)] with I := 0x0300 } 0x300 [0xC0, 0xC0])
    (t.fb.get 0 0, t.fb.get 0 63, t.fb.get 31 0, t.fb.get 31 63, t.fb.get 1 0, t.reg VF) =
      (true, true, true, true, false, 0) := by decide

/-! ### Keypad and timers -/

/-- T161: only the low nibble selects the key. -/
theorem test_skp : (after (keys (regs (word 0xE59E) [(5, 0x1A)]) 0x0400)).pc = 0x0204 ∧
    (after (keys (regs (word 0xE59E) [(5, 0x07)]) 0xFF7F)).pc = 0x0202 := by decide

/-- T163, T165. -/
theorem test_sknp : (after (regs (word 0xE5A1) [(5, 0x07)])).pc = 0x0204 ∧
    (after (keys (regs (word 0xE5A1) [(5, 0xF0)]) 0x0001)).pc = 0x0202 := by decide

/-- T167: keys 3 and 9. -/
theorem test_ld_k :
    let t := after (keys (regs (word 0xF20A) [(2, 0x77)]) 0x0208)
    (t.reg 2, t.pc) = (0x03, 0x0202) := by decide

/-- T171: the hold. -/
theorem test_ld_k_hold :
    let t := after { regs (word 0xF20A) [(2, 0x77)] with DT := 5, ST := 5 }
    (t.reg 2, t.pc, t.DT, t.ST) = (0x77, 0x0200, 5, 5) := by decide

/-- T172, T174: the delay timer is read, the sound timer is not. -/
theorem test_ld_vx_dt : (after { word 0xF407 with DT := 0x3C }).reg 4 = 0x3C ∧
    (after { regs (word 0xF407) [(4, 0x99)] with ST := 0x3C }).reg 4 = 0x00 := by decide

/-- T177. -/
theorem test_ld_dt : (after { regs (word 0xF415) [(4, 0xFF)] with DT := 0x10 }).DT = 0xFF := by decide

/-- T178. -/
theorem test_ld_st :
    let t := after (regs (word 0xF418) [(4, 0x05)])
    (t.ST, t.DT) = (0x05, 0x00) := by decide

/-! ### Ticks, reset, faults -/

/-- K1, K3. -/
theorem test_tick :
    let t := ({ State.reset with DT := 0x02, ST := 0x01 } : State).tick
    (t.DT, t.ST, State.reset.tick.DT) = (0x01, 0x00, 0x00) := by decide

/-- K7: 255 ticks, and one more. -/
theorem test_ticks :
    (({ State.reset with DT := 0xFF } : State).ticks 255).DT = 0 ∧
    (({ State.reset with DT := 0xFF } : State).ticks 254).DT = 1 ∧
    (({ State.reset with DT := 0xFF } : State).ticks 256).DT = 0 := by decide

/-- K8: the tick comes before the step. -/
theorem test_tick_before_step :
    let s := word 0xF107
    let t := after { s with DT := 0x02, now := { s.now with before := [.ticks 1] } }
    (t.DT, t.reg 1, t.pc) = (0x01, 0x01, 0x0202) := by decide

/-- T39 and K6 at once: a request on a faulted engine takes no step, and ticks go on. -/
theorem test_faulted :
    let s := word 0x6111
    let t := after { s with DT := 0x03, fault := { valid := true, cause := 3, addr := 0x0300, opcode := 0x00EE },
                            now := { s.now with before := [.ticks 1] } }
    (t.reg 1, t.pc, t.DT, t.fault.cause, t.fault.addr) = (0x00, 0x0200, 0x02, 3, 0x0300) := by decide

/-- Section 3.2: reset with the ROM 00 E0 12 00, after a run that left other values. -/
theorem test_reset :
    let t := ({ regs State.reset [(3, 0x44)] with pc := 0x0ABC, sp := 7 } : State).resetWith [0x00, 0xE0, 0x12, 0x00]
    (t.reg 3, t.pc, t.sp, t.fault.valid) = (0x00, 0x0200, 0, false) ∧
    (t.readByte 0x050, t.readByte 0x09F, t.readByte 0x201, t.readByte 0x203, t.readByte 0x204, t.readByte 0x0A0) =
      (0xF0, 0x80, 0xE0, 0x00, 0x00, 0x00) := by decide

/-- The reset state but for `pc`, with events before its step. -/
def events (es : List HostEvent) : State :=
  { State.reset with pc := 0x0ABC, now := { State.reset.now with before := es } }

/-- R142: a request while `rst` is asserted does nothing. -/
theorem test_request_in_reset :
    let t := after (events [.assertReset [0x61, 0x11]])
    (t.rst, t.pc, t.reg 1, t.readByte 0x201) = (true, 0x0200, 0x00, 0x11) := by decide

/-- R191: after the release the ROM's first instruction runs, here LD V1, 0x11. -/
theorem test_request_after_reset :
    let t := after (events [.assertReset [0x61, 0x11], .releaseReset])
    (t.rst, t.pc, t.reg 1) = (false, 0x0202, 0x11) := by decide

/-! ### Witnesses: states and operands that meet the hypotheses of the statements, each clause at a boundary
value of its range -/

theorem witness_DecodeOfEncodeIsTheInstruction :
    (Instr.sys 0xFFF).wf = true ∧ (Instr.sys 0x0E1).wf = true ∧ (Instr.nop 0xF1FF).wf = true := by decide

theorem witness_RowsFourToThirtyFiveAreDisjoint :
    ((3 ≠ 34 ∧ 3 ≤ 3 ∧ 3 < 35 ∧ 34 < 35) ∧ opcodeMap[3]? = some (0x1000, 0xF000) ∧
      opcodeMap[34]? = some (0xF065, 0xF0FF)) ∧
    ((34 ≠ 0 ∧ 3 ≤ 34 ∧ 34 < 35 ∧ 0 < 35) ∧ opcodeMap[0]? = some (0x00E0, 0xFFFF)) := by decide

theorem witness_StepRunsTheDecodedInstruction :
    let s := wordAt 0x0FFE 0x6111
    s.beginStep.rst = false ∧ s.beginStep.running ∧ s.beginStep.pc.toNat ≤ 0xFFE ∧
    decodeBytes [s.beginStep.readByte s.beginStep.pc.toNat, s.beginStep.readByte (s.beginStep.pc.toNat + 1)]
      = .ok (.ldImm 1 0x11, []) := by decide

theorem witness_EventsBeforeAStepAreTicks :
    let s : State := { State.reset with now := { State.reset.now with before := [.ticks 3, .ticks 0] } }
    s.noReset := rfl

theorem witness_PlacedWordRunsNext : State.reset.mem.wf State.reset.cfg = true := by decide

theorem witness_FetchOutsideMemoryIsFatal :
    let s : State := { State.reset with pc := 0x0FFF }
    s.running ∧ 0xFFE < s.pc.toNat := by decide

theorem witness_FaultedEngineTakesNoStep :
    let s : State := { State.reset with DT := 2, fault := { valid := true, cause := 3, addr := 0x0200, opcode := 0x00EE },
                                        now := { State.reset.now with before := [.ticks 3] } }
    s.fault.valid = true ∧ s.noReset := ⟨rfl, rfl⟩

theorem witness_FatalEntryWritesOnlyTheLatch :
    ∃ t, exec .ret State.reset = .next t ∧ t.fault ≠ State.reset.fault := ⟨_, rfl, by decide⟩

/-- The three checks, and the last bases and stack pointers at which they pass. -/
theorem witness_EachInstructionHasAtMostOneCheck :
    (∃ t, exec (.call 0x300) { State.reset with sp := 15 } = .next t ∧ t.fault.cause = FatalCause.stackOverflow.code) ∧
    (∃ t, exec .ret State.reset = .next t ∧ t.fault.cause = FatalCause.stackUnderflow.code) ∧
    (∃ t, exec (.ldB 3) { State.reset with I := 0x0FFE } = .next t ∧ t.fault.cause = FatalCause.dataOob.code) ∧
    (∃ t, exec (.call 0x300) { State.reset with sp := 14 } = .next t ∧ t.fault.valid = false) ∧
    (∃ t, exec .ret { State.reset with sp := 1 } = .next t ∧ t.fault.valid = false) ∧
    (∃ t, exec (.ldB 3) { State.reset with I := 0x0FFD } = .next t ∧ t.fault.valid = false) :=
  ⟨⟨_, rfl, by decide⟩, ⟨_, rfl, by decide⟩, ⟨_, rfl, by decide⟩, ⟨_, rfl, by decide⟩, ⟨_, rfl, by decide⟩,
    ⟨_, rfl, by decide⟩⟩

theorem witness_SequentialFlowAdvancesByTwo :
    (Instr.ldImm 1 0x11).ownPc = false ∧
    ∃ t, exec (.ldImm 1 0x11) State.reset = .next t ∧ t.fault.valid = false := ⟨rfl, _, rfl, by decide⟩

/-- T6: a jump to its own address. -/
theorem witness_SpinChangesNothing : (word 0x1200).spinning := ⟨by decide, by decide, by decide⟩

theorem witness_SysIsANoOp : (0x0E1 : Addr12) ≠ 0x0E0 ∧ (0x0E1 : Addr12) ≠ 0x0EE := by decide

theorem witness_UndefinedWordsAreNoOps :
    undefinedWord 0x5121 = true ∧ undefinedWord 0x8128 = true ∧ undefinedWord 0x912F = true ∧
    undefinedWord 0xE1A0 = true ∧ undefinedWord 0xF166 = true := by decide

theorem witness_ImmediateSkips :
    (regs State.reset [(15, 0x01)]).reg 15 = 0x01 ∧ State.reset.reg 15 ≠ 0x01 := by decide

theorem witness_RegisterSkips :
    (1 : Fin 16) ≠ 0 ∧ (15 : Fin 16) ≠ 0 ∧
    State.reset.reg 1 = State.reset.reg 2 ∧ (regs State.reset [(1, 7)]).reg 1 ≠ (regs State.reset [(1, 7)]).reg 2 := by
  decide

theorem witness_CallPushesTheReturnAddress :
    State.reset.sp.toNat < 15 ∧ ({ State.reset with sp := 14 } : State).sp.toNat < 15 := by decide

theorem witness_ReturnPopsTheAddress :
    0 < ({ State.reset with sp := 1 } : State).sp.toNat ∧ 0 < ({ State.reset with sp := 15 } : State).sp.toNat ∧
    State.reset.sp = 0 := by decide

theorem witness_StackLimitsAreFatal :
    ({ State.reset with sp := 15 } : State).sp = 15 ∧ State.reset.sp = 0 := by decide

/-- Fifteen nested calls, and one or all of the returns. -/
theorem witness_NestedCallsReturnInReverseOrder :
    State.reset.sp.toNat + (List.replicate 15 (0x300 : Addr12)).length ≤ 15 ∧ 1 ≤ 1 ∧
    15 ≤ (List.replicate 15 (0x300 : Addr12)).length := by decide

theorem witness_OneReturnTooManyUnderflows :
    State.reset.sp = 0 ∧ (List.replicate 15 (0x300 : Addr12)).length ≤ 15 := by decide

/-- The statements about a destination other than VF. -/
theorem witness_AddSetsTheCarry : (14 : Reg) ≠ VF ∧ (0 : Reg) ≠ VF := by decide

theorem witness_SubtractSetsNoBorrow : (14 : Reg) ≠ VF ∧ (0 : Reg) ≠ VF := by decide

/-- Both values of SHIFT_SRC. -/
theorem witness_ShiftsMoveOnePlace :
    let s := regs State.reset [(1, 0x81), (2, 0x01)]
    (s.cfg.shiftSrc = .vx ∧ s.reg 1 = 0x81) ∧
    (let s' : State := { s with cfg := { s.cfg with shiftSrc := .vy } }; s'.cfg.shiftSrc = .vy ∧ s'.reg 2 = 0x01) ∧
    (1 : Reg) ≠ VF := by decide

theorem witness_FlagRegisterChangesOnlyByItsWriters :
    (Instr.addReg 1 2).writesFlag = true ∧
    ∃ t, exec (.addReg 1 2) (regs State.reset [(1, 0xFF), (2, 0xFF)]) = .next t ∧ t.fault.valid = false ∧
      t.reg VF ≠ State.reset.reg VF := ⟨rfl, _, rfl, by decide⟩

theorem witness_DecimalDigitsAreStored :
    let s : State := { State.reset with I := 0x0FFD }
    s.mem.wf s.cfg = true ∧ s.I.toNat + 2 ≤ 0xFFF := by decide

/-- The most and the fewest registers, ending exactly at 0xFFF. -/
theorem witness_RegistersAreDumped :
    State.reset.mem.wf State.reset.cfg = true ∧
    ({ State.reset with I := 0x0FF0 } : State).I.toNat + (15 : Reg).val ≤ 0xFFF ∧
    ({ State.reset with I := 0x0FFF } : State).I.toNat + (0 : Reg).val ≤ 0xFFF := by decide

theorem witness_RegistersAreLoaded :
    ({ State.reset with I := 0x0FF0 } : State).I.toNat + (15 : Reg).val ≤ 0xFFF ∧
    ({ State.reset with I := 0x0FFF } : State).I.toNat + (0 : Reg).val ≤ 0xFFF ∧
    (0 : Reg) ≤ 15 ∧ (14 : Reg) < 15 := by decide

/-- Each of the four clauses at its first failing base, and at the highest value of `I`. -/
theorem witness_DataOutsideMemoryIsFatal :
    0xFFF < ({ State.reset with I := 0x0FFE } : State).I.toNat + 2 ∧
    0xFFF < ({ State.reset with I := 0x0FF1 } : State).I.toNat + (15 : Reg).val ∧
    0xFFF < ({ State.reset with I := 0x1000 } : State).I.toNat + (0 : Reg).val ∧
    (0 < (15 : Fin 16).val ∧ 0xFFF < ({ State.reset with I := 0x0FF2 } : State).I.toNat + (15 : Fin 16).val - 1) ∧
    (0 < (1 : Fin 16).val ∧ 0xFFF < ({ State.reset with I := 0xFFFF } : State).I.toNat + (1 : Fin 16).val - 1) := by
  decide

theorem witness_DumpThenLoadRestoresTheRegisters :
    let s : State := { State.reset with I := 0x0FF0 }
    s.mem.wf s.cfg = true ∧ s.I.toNat + (15 : Reg).val ≤ 0xFFF := by decide

theorem witness_StoreIsSeenByTheNextFetch :
    let s : State := { State.reset with I := 0x0202 }
    s.mem.wf s.cfg = true ∧ 1 ≤ (1 : Reg).val ∧ s.I = s.pc + 2 ∧ s.I.toNat + (1 : Reg).val ≤ 0xFFF ∧
    ∃ t, exec (.dumpRegs 1) s = .next t := ⟨by decide, by decide, by decide, by decide, _, rfl⟩

/-- One instruction that writes each kind of state. -/
theorem witness_EachStateHasItsOwnWriters :
    (∃ t, exec (.dumpRegs 0) { regs State.reset [(0, 0x11)] with I := 0x0400 } = .next t ∧ t.mem ≠ State.reset.mem) ∧
    (∃ t, exec .cls State.reset = .next t ∧ t.fbPush ≠ State.reset.fbPush) ∧
    (∃ t, exec (.call 0x300) State.reset = .next t ∧ t.sp ≠ State.reset.sp) ∧
    (∃ t, exec (.ldI 0x300) State.reset = .next t ∧ t.I ≠ State.reset.I) ∧
    (∃ t, exec (.ldDTVx 0) (regs State.reset [(0, 0x11)]) = .next t ∧ t.DT ≠ State.reset.DT) ∧
    (∃ t, exec (.ldSTVx 0) (regs State.reset [(0, 0x11)]) = .next t ∧ t.ST ≠ State.reset.ST) :=
  ⟨⟨_, rfl, by decide⟩, ⟨_, rfl, by decide⟩, ⟨_, rfl, by decide⟩, ⟨_, rfl, by decide⟩, ⟨_, rfl, by decide⟩,
    ⟨_, rfl, by decide⟩⟩

/-- The last legal base for fifteen rows, and no row with `I` outside memory. -/
theorem witness_DrawCompletesWithItsFrame :
    ((15 : Fin 16).val = 0 ∨ ({ State.reset with I := 0x0FF1 } : State).I.toNat + (15 : Fin 16).val - 1 ≤ 0xFFF) ∧
    ((0 : Fin 16).val = 0 ∨ ({ State.reset with I := 0x1000 } : State).I.toNat + (0 : Fin 16).val - 1 ≤ 0xFFF) := by
  decide

theorem witness_DrawFlipsThePixelsUnderTheSprite :
    let s : State := { State.reset with I := 0x0050 }
    8 ≤ s.cfg.fbWidth ∧ 15 ≤ s.cfg.fbHeight ∧ s.fb.wf s.cfg.fbWidth s.cfg.fbHeight ∧
    ((5 : Fin 16).val = 0 ∨ s.I.toNat + (5 : Fin 16).val - 1 ≤ 0xFFF) ∧
    ∃ t, exec (.drw 0 0 5) s = .next t :=
  ⟨by decide, by decide, Frame.wf_blank 64 32, by decide, _, rfl⟩

theorem witness_DrawTwiceRestoresTheFramebuffer :
    let s : State := { State.reset with I := 0x0050 }
    s.cfg.wf ∧ s.fb.wf s.cfg.fbWidth s.cfg.fbHeight ∧ (14 : Reg) ≠ VF ∧ (0 : Reg) ≠ VF ∧
    ((5 : Fin 16).val = 0 ∨ s.I.toNat + (5 : Fin 16).val - 1 ≤ 0xFFF) ∧
    8 ≤ s.cfg.fbWidth ∧ 15 ≤ s.cfg.fbHeight :=
  ⟨by decide, Frame.wf_blank 64 32, by decide, by decide, by decide, by decide, by decide⟩

theorem witness_DisplaySinkIsInvokedByClearAndDraw :
    State.reset.fbPush = false ∧ State.reset.running ∧ ∃ t, exec .cls State.reset = .next t ∧ t.fbPush = true :=
  ⟨rfl, rfl, _, rfl, rfl⟩

/-- The highest key number, held and not held. -/
theorem witness_KeySkips :
    let s := keys (regs State.reset [(15, 0xFF)]) 0x8000
    15 = (s.reg 15).toNat % 16 ∧ s.now.keys.getLsbD 15 = true ∧ State.reset.now.keys.getLsbD 15 = false := by
  decide

theorem witness_WaitForKey : State.reset.now.keys = 0 ∧ (keys State.reset 0x8000).now.keys ≠ 0 := by decide

theorem witness_TicksCountDownToZero :
    ({ State.reset with DT := 1, ST := 1 } : State).DT ≠ 0 ∧ ({ State.reset with DT := 1, ST := 1 } : State).ST ≠ 0 ∧
    State.reset.DT = 0 ∧ State.reset.ST = 0 := by decide

theorem witness_OnlyKeyInstructionsLookAtTheKeys : (Instr.rnd 3 0x0F).readsKeys = false := rfl

theorem witness_OnlyRandomLooksAtTheDraw : (Instr.skp 5).readsRnd = false := rfl

theorem witness_NothingObservesTheSoundTimer : ∃ t, step (word 0xF418) = .next t := ⟨_, rfl⟩

/-- With an input given for the step after, and with none. -/
theorem witness_InputsArriveInOrder :
    let i : StepInput := { before := [.ticks 1], keys := 0x0001, rnd := 0xB7 }
    (State.reset.noReset ∧ State.reset.later = [] ∧ ∃ t, step State.reset = .next t) ∧
    (let s : State := { State.reset with later := [i] }; s.noReset ∧ s.later = i :: [] ∧ ∃ t, step s = .next t) :=
  ⟨⟨rfl, rfl, _, rfl⟩, rfl, rfl, _, rfl⟩

/-- X3 and X1: the shortest and the longest legal ROM. -/
theorem witness_ResetBuildsTheState :
    ([] : List Byte).length ≤ 0xE00 ∧ (List.replicate 0xE00 (0xAB : Byte)).length ≤ 0xE00 := by
  rw [List.length_replicate]; decide

/-- X2: one byte more. -/
theorem witness_TooLargeRomIsFatal : 0xE00 < (List.replicate 0xE01 (0xAB : Byte)).length := by
  rw [List.length_replicate]; decide

/-- A state that is not the reset state, at the bounds of the invariant. -/
theorem witness_EveryStepKeepsTheInvariant :
    let s : State := { State.reset with pc := 0x10FE, sp := 15 }
    s.Inv ∧ ∃ t, step s = .next t :=
  ⟨⟨by decide, Frame.wf_blank 64 32, by decide, by decide, by decide, ⟨fun _ => rfl, fun h => Bool.noConfusion h⟩,
    fun h => Bool.noConfusion h⟩, _, rfl⟩

/-- A reset before a step, first and only or after a tick and from a faulted engine; the shortest and the
longest ROM with an instruction; and `rst` still up when the request comes. -/
theorem witness_ResetBeforeAStepRebuildsTheState :
    let e (es : List HostEvent) : State :=
      { State.reset with fault := { valid := true, cause := 3, addr := 0x0200, opcode := 0x00EE },
                         now := { State.reset.now with before := es } }
    (e [.ticks 1, .assertReset [], .ticks 2]).now.before = [.ticks 1] ++ .assertReset [] :: [.ticks 2] ∧
    (e [.assertReset [], .releaseReset]).now.before = [] ++ [.assertReset [], .releaseReset] ∧
    ((e [.ticks 1, .assertReset [0x61, 0x11], .releaseReset]).now.before =
      [.ticks 1] ++ [.assertReset [0x61, 0x11], .releaseReset] ∧ [(0x61 : Byte), 0x11].length ≤ 0xE00) ∧
    (e [.assertReset []]).beginStep.rst = true ∧
    ((0x61 : Byte) :: 0x11 :: List.replicate 0xDFE 0x00).length ≤ 0xE00 :=
  ⟨rfl, rfl, ⟨rfl, by decide⟩, rfl, by rw [List.length_cons, List.length_cons, List.length_replicate]⟩

end Sys2Proof.Tests
end

/-! PROOFS. State (10_state.md): who writes each piece of it (O32, O41), and that nothing observes the sound
timer (O53). -/

namespace Sys2Proof.Machine

/-! ### What one instruction can do -/

/-- Everything the state after instruction `i` from `s` can be, with the instructions that can reach it: one
constructor per kind of state that an instruction writes. That `exec` answers nothing else is
`exec_hasEffect`. -/
inductive Effect (i : Instr) (s : State) : State → Prop where
  /-- Only `pc` is written: flow, skips and no-ops, and the wait for a key that holds. -/
  | flow (target : Word) : Effect i s (s.setPc target)
  /-- A fatal condition: only the latch is written (R166). -/
  | fatal (cause : FatalCause) : Effect i s (s.raiseFatal cause (encode i))
  /-- A write of the destination register `x`; `i` names VF when `x` is VF. -/
  | register (x : Reg) (v : Byte) (dest : i.namesVF = (x == VF)) : Effect i s (s.setReg x v).advance
  /-- A result and its flag (R91). -/
  | flag (x : Reg) (v : Byte) (b : Bool) (writer : i.writesFlag = true) :
      Effect i s (s.setRegThenFlag x v b).advance
  /-- The register load (R115). -/
  | load (x : Reg) (vs : List Byte) (writer : i = .loadRegs x) : Effect i s (s.setRegsTo x vs).advance
  /-- A write of `I` (R15). -/
  | index (v : Word) (writer : (∃ nnn, i = .ldI nnn) ∨ (∃ x, i = .addI x) ∨ (∃ x, i = .ldF x)) :
      Effect i s (s.setI v).advance
  /-- A write of DT (R17). -/
  | delay (v : Byte) (writer : ∃ x, i = .ldDTVx x) : Effect i s (s.setDT v).advance
  /-- A write of ST (R18). -/
  | sound (v : Byte) (writer : ∃ x, i = .ldSTVx x) : Effect i s (s.setST v).advance
  /-- A store of bytes from `I` on (R12). -/
  | store (bs : List Byte) (writer : (∃ x, i = .ldB x) ∨ (∃ x, i = .dumpRegs x)) :
      Effect i s (s.writeAtI bs).advance
  /-- CLS: the framebuffer and the pulse (R120). -/
  | clear (f : Frame) (writer : i = .cls) : Effect i s (s.setFb f).pushDisplay.advance
  /-- DRW: the framebuffer, the pulse and VF (R121). -/
  | draw (f : Frame) (b : Bool) (writer : ∃ x y n, i = .drw x y n) :
      Effect i s ((s.setFb f).setReg VF (flagByte b)).pushDisplay.advance
  /-- CALL: the stack, `sp` and `pc` (R76). -/
  | push (ra : Word) (target : Word) (writer : ∃ nnn, i = .call nnn) :
      Effect i s (((s.setStackAt s.sp ra).setSp (s.sp + 1)).setPc target)
  /-- RET: `sp` and `pc` (R74). -/
  | pop (target : Word) (writer : i = .ret) : Effect i s ((s.setPc target).setSp (s.sp - 1))

/-- An access with its range check answers a state with one of the effects when the access does. -/
theorem withDataRange_hasEffect {i : Instr} {s : State} (len : Nat) {access : State → Result}
    (h : ∃ t, access s = .next t ∧ Effect i s t) : ∃ t, withDataRange len i s access = .next t ∧ Effect i s t := by
  obtain ⟨-, hacc⟩ | ⟨-, hoob⟩ := withDataRange_cases len i s access
  · rw [hacc]; exact h
  · exact ⟨_, hoob, .fatal .dataOob⟩

theorem execRet_hasEffect (s : State) : ∃ t, execRet s = .next t ∧ Effect .ret s t := by
  unfold execRet
  split
  · exact ⟨_, rfl, .fatal .stackUnderflow⟩
  · exact ⟨_, rfl, .pop _ rfl⟩

theorem execCall_hasEffect (nnn : Addr12) (s : State) : ∃ t, execCall nnn s = .next t ∧ Effect (.call nnn) s t := by
  unfold execCall
  split
  · exact ⟨_, rfl, .fatal .stackOverflow⟩
  · exact ⟨_, rfl, .push _ _ ⟨nnn, rfl⟩⟩

theorem execLdVxK_hasEffect (x : Reg) (s : State) : ∃ t, execLdVxK x s = .next t ∧ Effect (.ldVxK x) s t := by
  unfold execLdVxK
  split
  · exact ⟨s, rfl, .flow s.pc⟩
  · exact ⟨_, rfl, .register x _ rfl⟩

/-- Every instruction answers a next state, by one of the effects. -/
theorem exec_hasEffect (i : Instr) (s : State) : ∃ t, exec i s = .next t ∧ Effect i s t := by
  cases i with
  | ret => exact execRet_hasEffect s
  | call nnn => exact execCall_hasEffect nnn s
  | ldVxK x => exact execLdVxK_hasEffect x s
  | sys | jp | seImm | sneImm | seReg | sneReg | jpV0 | skp | sknp | nop => exact ⟨_, rfl, .flow _⟩
  | ldImm x | addImm x | ldReg x | orReg x | andReg x | xorReg x | rnd x | ldVxDT x =>
    exact ⟨_, rfl, .register x _ rfl⟩
  | addReg x | subReg x | shr x | subnReg x | shl x => exact ⟨_, rfl, .flag x _ _ rfl⟩
  | ldI nnn => exact ⟨_, rfl, .index _ (.inl ⟨nnn, rfl⟩)⟩
  | addI x => exact ⟨_, rfl, .index _ (.inr (.inl ⟨x, rfl⟩))⟩
  | ldF x => exact ⟨_, rfl, .index _ (.inr (.inr ⟨x, rfl⟩))⟩
  | ldDTVx x => exact ⟨_, rfl, .delay _ ⟨x, rfl⟩⟩
  | ldSTVx x => exact ⟨_, rfl, .sound _ ⟨x, rfl⟩⟩
  | cls => exact ⟨_, rfl, .clear _ rfl⟩
  | drw x y n => rw [exec_drw]; exact withDataRange_hasEffect n.val ⟨_, rfl, .draw _ _ ⟨x, y, n, rfl⟩⟩
  | ldB x => rw [exec_ldB]; exact withDataRange_hasEffect 3 ⟨_, rfl, .store _ (.inl ⟨x, rfl⟩)⟩
  | dumpRegs x => rw [exec_dumpRegs]; exact withDataRange_hasEffect (x.val + 1) ⟨_, rfl, .store _ (.inr ⟨x, rfl⟩)⟩
  | loadRegs x => rw [exec_loadRegs]; exact withDataRange_hasEffect (x.val + 1) ⟨_, rfl, .load x _ rfl⟩

/-- The inversion of `exec`: a next state is reached by one of the effects. -/
theorem exec_next_effect {i : Instr} {s t : State} (h : exec i s = .next t) : Effect i s t := by
  obtain ⟨u, hu, he⟩ := exec_hasEffect i s
  rw [hu] at h
  exact Host.Outcome.next.inj h ▸ he

/-! ### The writers of VF -/

theorem flagByte_eq_zero_or_one (b : Bool) : flagByte b = 0 ∨ flagByte b = 1 := by
  cases b
  · exact .inl rfl
  · exact .inr rfl

/-- After DRW the flag register is the flag (R121). -/
theorem reg_VF_of_draw (s : State) (f : Frame) (b : Bool) :
    ((s.setFb f).setReg VF (flagByte b)).pushDisplay.advance.reg VF = flagByte b := by
  rw [State.advance_reg, State.pushDisplay_reg, State.reg_setReg_same]

/-- A register load whose last register is not VF leaves VF alone (R115). -/
theorem reg_VF_setRegsTo (s : State) {x : Reg} (vs : List Byte) (h : x ≠ VF) :
    (s.setRegsTo x vs).reg VF = s.reg VF := by
  have hx : ¬ VF ≤ x := fun hle => h (le_antisymm (Fin.le_last x) hle)
  rw [State.reg_setRegsTo, if_neg hx]

/-- An instruction that is no flag writer and does not name VF leaves VF alone (R11). -/
theorem Effect.reg_VF_unchanged {i : Instr} {s t : State} (he : Effect i s t) (hw : i.writesFlag = false)
    (hn : i.namesVF = false) : t.reg VF = s.reg VF := by
  cases he with
  | register x v dest =>
    have hx : VF ≠ x := fun h => by simp [hn, ← h] at dest
    rw [State.advance_reg, State.reg_setReg_ne _ _ hx]
  | load x vs writer =>
    subst writer
    have hx : x ≠ VF := by simpa [Instr.namesVF] using hn
    rw [State.advance_reg, reg_VF_setRegsTo _ _ hx]
  | flag x v b writer => rw [writer] at hw; cases hw
  | draw f b writer => obtain ⟨x, y, n, rfl⟩ := writer; cases hw
  | flow | fatal | index | delay | sound | store | clear | push | pop => rfl

/-- What a flag-writing instruction can do: raise a fatal condition, or leave a flag in VF (R11, R91, R121). -/
theorem exec_writesFlag_cases {i : Instr} (s : State) (hw : i.writesFlag = true) :
    (∃ cause op, exec i s = .next (s.raiseFatal cause op)) ∨
    (∃ t b, exec i s = .next t ∧ t.reg VF = flagByte b) := by
  cases i with
  | addReg | subReg | shr | subnReg | shl => exact .inr ⟨_, _, rfl, State.reg_setRegThenFlag_VF _ _ _ _⟩
  | drw x y n =>
    rw [exec_drw]
    obtain ⟨-, hacc⟩ | ⟨-, hoob⟩ := withDataRange_cases n.val (.drw x y n) s _
    · exact .inr ⟨_, _, hacc, reg_VF_of_draw s _ _⟩
    · exact .inl ⟨_, _, hoob⟩
  | _ => cases hw

/-- A flag writer that completes leaves 0 or 1 in VF (R11). -/
theorem reg_VF_of_writesFlag {i : Instr} {s t : State} (h : exec i s = .next t) (hw : i.writesFlag = true)
    (hv : t.fault.valid = false) : t.reg VF = 0 ∨ t.reg VF = 1 := by
  obtain ⟨cause, op, he⟩ | ⟨u, b, he, hf⟩ := exec_writesFlag_cases s hw
  · obtain rfl := Host.Outcome.next.inj (he.symm.trans h)
    cases hv
  · obtain rfl := Host.Outcome.next.inj (he.symm.trans h)
    rw [hf]; exact flagByte_eq_zero_or_one b

/-- Settles O32: outside the writers and the instructions that name VF every effect leaves VF alone, and the
last write of a flag writer that completes is a flag. -/
theorem flagRegisterChangesOnlyByItsWriters : Obligations.FlagRegisterChangesOnlyByItsWriters := by
  intro i s t h
  refine ⟨fun hne => ?_, reg_VF_of_writesFlag h⟩
  by_contra hno
  obtain ⟨hw, hn⟩ := not_or.mp hno
  exact hne ((exec_next_effect h).reg_VF_unchanged (Bool.eq_false_of_not_eq_true hw)
    (Bool.eq_false_of_not_eq_true hn))

/-! ### The writers of each piece of state -/

/-- Settles O41: each effect writes its own piece of state, and the instructions that reach it are the
writers. -/
theorem eachStateHasItsOwnWriters : Obligations.EachStateHasItsOwnWriters := by
  intro i s t h
  cases exec_next_effect h with
  | flow | fatal | register | flag | load => simp
  | index _ writer | delay _ writer | sound _ writer | store _ writer => simp [writer]
  | clear _ writer | draw _ _ writer | push _ _ writer | pop _ writer => simp [writer]

/-! ### The sound timer -/

/-- An access with its range check commutes with an operation that leaves `I` alone and commutes with the fatal
entry, when the access does. -/
theorem withDataRange_map {f : State → State} {s : State} (len : Nat) (i : Instr) {access : State → Result}
    (hI : (f s).I = s.I) (hfatal : ∀ cause op, (f s).raiseFatal cause op = f (s.raiseFatal cause op))
    (haccess : access (f s) = Result.map f (access s)) :
    withDataRange len i (f s) access = Result.map f (withDataRange len i s access) := by
  unfold withDataRange
  rw [hI]
  split
  · exact haccess
  · exact congrArg Host.Outcome.next (hfatal .dataOob (encode i))

theorem withDataRange_setST (len : Nat) (i : Instr) (s : State) (v : Byte) {access : State → Result}
    (h : access (s.setST v) = Result.map (State.setST · v) (access s)) :
    withDataRange len i (s.setST v) access = Result.map (State.setST · v) (withDataRange len i s access) :=
  withDataRange_map (f := (State.setST · v)) len i rfl (fun _ _ => rfl) h

theorem execRet_setST (s : State) (v : Byte) :
    execRet (s.setST v) = Result.map (State.setST · v) (execRet s) := by
  unfold execRet
  rw [State.setST_sp]
  split <;> rfl

theorem execCall_setST (nnn : Addr12) (s : State) (v : Byte) :
    execCall nnn (s.setST v) = Result.map (State.setST · v) (execCall nnn s) := by
  unfold execCall
  rw [State.setST_sp]
  split <;> rfl

theorem execLdVxK_setST (x : Reg) (s : State) (v : Byte) :
    execLdVxK x (s.setST v) = Result.map (State.setST · v) (execLdVxK x s) := by
  have hk : firstHeldKey (s.setST v) = firstHeldKey s := rfl
  unfold execLdVxK
  rw [hk]
  cases firstHeldKey s <;> rfl

/-- No instruction looks at ST: run from a state that differs in ST only, it answers the same but for ST (R18).
LD ST alone overwrites the difference. -/
theorem exec_setST (i : Instr) (s : State) (v : Byte) :
    ∃ w, exec i (s.setST v) = Result.map (State.setST · w) (exec i s) := by
  cases i with
  | ldSTVx x => exact ⟨s.reg x, rfl⟩
  | ret => exact ⟨v, execRet_setST s v⟩
  | call nnn => exact ⟨v, execCall_setST nnn s v⟩
  | ldVxK x => exact ⟨v, execLdVxK_setST x s v⟩
  | drw x y n => simp only [exec_drw]; exact ⟨v, withDataRange_setST n.val _ s v rfl⟩
  | ldB x => simp only [exec_ldB]; exact ⟨v, withDataRange_setST 3 _ s v rfl⟩
  | dumpRegs x => simp only [exec_dumpRegs]; exact ⟨v, withDataRange_setST (x.val + 1) _ s v rfl⟩
  | loadRegs x => simp only [exec_loadRegs]; exact ⟨v, withDataRange_setST (x.val + 1) _ s v rfl⟩
  | _ => exact ⟨v, rfl⟩

/-- The engine's step from a state that differs in ST only answers the same but for ST. -/
theorem engineStep_setST (s : State) (v : Byte) :
    ∃ w, engineStep (s.setST v) = Result.map (State.setST · w) (engineStep s) := by
  have hf : (s.setST v).fetch = s.fetch := rfl
  unfold engineStep
  rw [State.setST_fault, hf]
  cases s.fault.valid with
  | true => exact ⟨v, rfl⟩
  | false =>
    cases s.fetch with
    | none => exact ⟨v, rfl⟩
    | some op => exact exec_setST (decodeWord op) s v

/-- So does a request, held in reset or not. -/
theorem requestedStep_setST (s : State) (v : Byte) :
    ∃ w, requestedStep (s.setST v) = Result.map (State.setST · w) (requestedStep s) := by
  unfold requestedStep
  rw [State.setST_rst]
  cases s.rst with
  | true => exact ⟨v, rfl⟩
  | false => exact engineStep_setST s v

/-- An event between two steps: ticks count ST down by itself, reset overwrites it. -/
theorem State.hostEvent_setST (s : State) (e : HostEvent) (v : Byte) :
    ∃ w, (s.setST v).hostEvent e = (s.hostEvent e).setST w := by
  cases e with
  | ticks n => exact ⟨countDown n v, rfl⟩
  | assertReset rom => exact ⟨0, rfl⟩
  | releaseReset => exact ⟨v, rfl⟩

theorem State.hostEvents_setST (es : List HostEvent) (s : State) (v : Byte) :
    ∃ w, (s.setST v).hostEvents es = (s.hostEvents es).setST w := by
  induction es generalizing s v with
  | nil => exact ⟨v, rfl⟩
  | cons e es ih =>
    obtain ⟨w, hw⟩ := s.hostEvent_setST e v
    rw [State.hostEvents_cons, hw]
    exact ih (s.hostEvent e) w

theorem State.beginStep_setST (s : State) (v : Byte) : ∃ w, (s.setST v).beginStep = s.beginStep.setST w := by
  obtain ⟨w, hw⟩ := State.hostEvents_setST s.now.before (s.setFbPush false) v
  exact ⟨w, congrArg State.clearEvents hw⟩

theorem State.nextInput_setST (s : State) (v : Byte) : (s.setST v).nextInput = s.nextInput.setST v := by
  unfold State.nextInput
  rw [State.setST_later]
  cases s.later <;> rfl

/-- Settles O53: each part of a step carries a difference in ST to a difference in ST at most. -/
theorem nothingObservesTheSoundTimer : Obligations.NothingObservesTheSoundTimer := by
  intro s t v h
  obtain ⟨u, hu, rfl⟩ := stepRequest_next h
  obtain ⟨b, hb⟩ := s.beginStep_setST v
  obtain ⟨w, hw⟩ := requestedStep_setST s.beginStep b
  have hstep : step (s.setST v) = .next (u.setST w).nextInput := by
    rw [step, stepRequest, hb, hw, hu]; rfl
  exact ⟨_, hstep, by rw [State.nextInput_setST]; rfl⟩

end Sys2Proof.Machine

/-! PROOFS. Memory (20_memory.md): a store into code is seen by the very next fetch (O40). -/

namespace Sys2Proof.Machine

/-- The number of an opcode: its high byte is the one at the lower address (R33). -/
theorem opcodeOf_toNat (hi lo : Byte) : (opcodeOf hi lo).toNat = hi.toNat * 256 + lo.toNat := by
  rw [opcodeOf, BitVec.toNat_ofNat, Nat.mod_eq_of_lt (by omega)]

/-- A register dump whose range is inside memory stores `V[0..x]` from `I` on and goes on (R114). -/
theorem exec_dumpRegs_of_inRange {x : Reg} {s : State} (hr : s.I.toNat + x.val ≤ 0xFFF) :
    exec (.dumpRegs x) s = .next (s.writeAtI (s.regsTo x)).advance := by
  have hok : dataRangeOK s.I.toNat (x.val + 1) = true :=
    (dataRangeOK_iff _ _).mpr (.inr (Nat.succ_le_succ hr))
  rw [exec_dumpRegs, withDataRange_ok hok, sequential]

/-- After the registers up to `x` were stored from `I` on, the byte at `I + i` is `V[i]` (R114, R36). -/
theorem State.readByte_writeAtI_regsTo {s : State} {x i : Reg} (hwf : s.mem.wf s.cfg = true)
    (hr : s.I.toNat + x.val ≤ 0xFFF) (hi : i ≤ x) :
    (s.writeAtI (s.regsTo x)).readByte (s.I.toNat + i.val) = s.reg i := by
  have hb : s.I.toNat + (s.regsTo x).length ≤ memSize := by
    rw [State.regsTo_length]; exact Nat.succ_le_succ hr
  have hin : s.I.toNat ≤ s.I.toNat + i.val ∧ s.I.toNat + i.val - s.I.toNat < (s.regsTo x).length := by
    have hix : i.val ≤ x.val := hi
    rw [State.regsTo_length]; omega
  rw [State.readByte_writeAtI hwf hb, dif_pos hin]
  apply Option.some.inj
  rw [← List.getElem?_eq_getElem, Nat.add_sub_cancel_left, State.regsTo_getElem? s x i hi]

/-- Settles O40: the dump leaves `pc` at `I`, where V0 and V1 now stand, so they are the word fetched. -/
theorem storeIsSeenByTheNextFetch : Obligations.StoreIsSeenByTheNextFetch := by
  intro x s t hwf hx hI hr h
  obtain rfl := Host.Outcome.next.inj ((exec_dumpRegs_of_inRange hr).symm.trans h)
  have hpc : (s.writeAtI (s.regsTo x)).advance.pc = s.I := hI.symm
  have hfetch := State.fetch_eq_some (s := (s.writeAtI (s.regsTo x)).advance) (by rw [hpc]; omega)
  have hV0 := State.readByte_writeAtI_regsTo hwf hr (Fin.zero_le x)
  have hV1 := State.readByte_writeAtI_regsTo (i := 1) hwf hr hx
  rw [hpc, State.advance_readByte, State.advance_readByte] at hfetch
  exact ⟨_, hfetch, by rw [opcodeOf_toNat, ← hV0, ← hV1]; rfl⟩

end Sys2Proof.Machine

/-! PROOFS. Encoding (30_encoding.md): decoder and encoder undo each other (O2, O3), the decoder reads the
opcode map (O4), whose rows are disjoint (O5), and the words of the spec (O1). -/

namespace Sys2Proof

/-! ### A word is put together again from its fields (R52, R53) -/

theorem formatA_nnnOf {op : Word} {f : Nat} (hf : (familyOf op).val = f) : formatA f (nnnOf op) = op := by
  subst hf
  apply BitVec.eq_of_toNat_eq
  rw [formatA_toNat (familyOf op).isLt, familyOf_val, nnnOf_toNat]
  omega

theorem formatXK_xOf {op : Word} {f : Nat} {kk : Byte} (hf : (familyOf op).val = f)
    (hk : (kkOf op).toNat = kk.toNat) : formatXK f (xOf op) kk = op := by
  subst hf
  apply BitVec.eq_of_toNat_eq
  rw [formatXK_toNat (familyOf op).isLt, familyOf_val, xOf_val, ← hk, kkOf_toNat]
  omega

theorem formatXYN_xOf_yOf {op : Word} {f : Nat} {n : Fin 16} (hf : (familyOf op).val = f)
    (hn : (nOf op).val = n.val) : formatXYN f (xOf op) (yOf op) n = op := by
  subst hf
  apply BitVec.eq_of_toNat_eq
  rw [formatXYN_toNat (familyOf op).isLt, familyOf_val, xOf_val, yOf_val, ← hn, nOf_val]
  omega

/-! ### Encode of decode (R56, R57) -/

/-- SYS is well-formed when its word is not that of CLS or of RET (R56). -/
theorem wf_sys_iff (nnn : Addr12) :
    (Instr.sys nnn).wf = true ↔ formatA 0x0 nnn ≠ 0x00E0#16 ∧ formatA 0x0 nnn ≠ 0x00EE#16 := by
  have hinj (a : Addr12) : formatA 0x0 nnn = formatA 0x0 a ↔ nnn = a :=
    ⟨fun h => by rw [← nnnOf_formatA (f := 0x0) (by decide) nnn, h, nnnOf_formatA (by decide)], congrArg _⟩
  have hcls := hinj 0x0E0#12
  have hret := hinj 0x0EE#12
  rw [show formatA 0x0 0x0E0#12 = 0x00E0#16 from rfl] at hcls
  rw [show formatA 0x0 0x0EE#12 = 0x00EE#16 from rfl] at hret
  simp [Instr.wf, hcls, hret]

/-- `i` is a well-formed instruction and `op` is its word. -/
def Instr.StandsFor (i : Instr) (op : Word) : Prop := i.wf = true ∧ encode i = op

/-- The decoder's answer stands for the word. Along the decision tree of R56, a leaf for a defined row keeps the
fields of its format and has tested the selector; a fallthrough leaf holds the word, undefined by R57. -/
theorem decodeWord_standsFor (op : Word) : (decodeWord op).StandsFor op := by
  unfold decodeWord
  split
  next hf => -- family 0
    split_ifs with hcls hret
    · exact ⟨rfl, hcls.symm⟩
    · exact ⟨rfl, hret.symm⟩
    · have hop : formatA 0x0 (nnnOf op) = op := formatA_nnnOf hf
      exact ⟨(wf_sys_iff _).mpr (by rw [hop]; exact ⟨hcls, hret⟩), hop⟩
  next hf => exact ⟨rfl, formatA_nnnOf hf⟩
  next hf => exact ⟨rfl, formatA_nnnOf hf⟩
  next hf => exact ⟨rfl, formatXK_xOf hf rfl⟩
  next hf => exact ⟨rfl, formatXK_xOf hf rfl⟩
  next hf => -- family 5
    split_ifs with hn
    · exact ⟨rfl, formatXYN_xOf_yOf hf (congrArg Fin.val hn)⟩
    · exact ⟨by simp [Instr.wf, undefinedWord, hf, hn], rfl⟩
  next hf => exact ⟨rfl, formatXK_xOf hf rfl⟩
  next hf => exact ⟨rfl, formatXK_xOf hf rfl⟩
  next hf => -- family 8
    split
    iterate 9 next hn => exact ⟨rfl, formatXYN_xOf_yOf hf hn⟩
    refine ⟨?_, rfl⟩
    simp only [imp_false] at *
    simp [Instr.wf, undefinedWord, hf, Fin.ext_iff]
    omega
  next hf => -- family 9
    split_ifs with hn
    · exact ⟨rfl, formatXYN_xOf_yOf hf (congrArg Fin.val hn)⟩
    · exact ⟨by simp [Instr.wf, undefinedWord, hf, hn], rfl⟩
  next hf => exact ⟨rfl, formatA_nnnOf hf⟩
  next hf => exact ⟨rfl, formatA_nnnOf hf⟩
  next hf => exact ⟨rfl, formatXK_xOf hf rfl⟩
  next hf => exact ⟨rfl, formatXYN_xOf_yOf hf rfl⟩
  next hf => -- family E
    split
    iterate 2 next hk => exact ⟨rfl, formatXK_xOf hf hk⟩
    exact ⟨by simp_all [Instr.wf, undefinedWord, ← BitVec.toNat_inj], rfl⟩
  next => -- family F, the only one left
    have hf : (familyOf op).val = 0xF := by
      simp only [imp_false] at *
      omega
    split
    iterate 9 next hk => exact ⟨rfl, formatXK_xOf hf hk⟩
    exact ⟨by simp_all [Instr.wf, undefinedWord, ← BitVec.toNat_inj], rfl⟩

/-- Settles O3: the decoder's answer stands for its word. -/
theorem everyWordIsOneInstruction : Obligations.EveryWordIsOneInstruction := decodeWord_standsFor

/-! ### Rows 4 to 35 of the opcode map are disjoint from the others (R56) -/

/-- The row of the opcode map at index `j`, which has number `j + 1` (R55). -/
def mapRow (j : Nat) : Word × Word := opcodeMap.getD j (0, 1)

/-- Two rows clash when they fix a common bit to different values. -/
def rowsClash (p q : Word × Word) : Bool := p.1 &&& q.2 != q.1 &&& p.2

/-- A word that matches a row matches none that clashes with it. -/
theorem rowMatches_false_of_clash {op : Word} {p q : Word × Word} (hc : rowsClash p q = true)
    (hp : rowMatches op p = true) : rowMatches op q = false := by
  rw [← Bool.not_eq_true]
  intro hq
  simp only [rowMatches, beq_iff_eq] at hp hq
  rw [rowsClash, bne_iff_ne, ← hp, ← hq] at hc
  exact hc (by ac_rfl)

theorem mapRow_clash : ∀ i < 35, ∀ j < 35, 3 ≤ i → i ≠ j → rowsClash (mapRow i) (mapRow j) = true := by
  decide

/-- Settles O5: two such rows clash. -/
theorem rowsFourToThirtyFiveAreDisjoint : Obligations.RowsFourToThirtyFiveAreDisjoint := by
  rintro op i j p q hne hi hi' hj hp hq ⟨hmp, hmq⟩
  have hc := mapRow_clash i hi' j hj hi hne
  simp only [mapRow, List.getD_eq_getElem?_getD, hp, hq, Option.getD_some] at hc
  exact Bool.false_ne_true ((rowMatches_false_of_clash hc hmp).symm.trans hmq)

/-! ### An undefined word matches none of the rows 1 to 35 (R57) -/

theorem familyOf_eq_of_and_F000 {op m : Word} (h : op &&& 0xF000#16 = m) : familyOf op = familyOf m := by
  have hm : m = formatA (familyOf op).val 0 := by simp [← h, and_F000, formatA]
  rw [hm]
  exact Fin.ext (familyOf_formatA (familyOf op).isLt 0).symm

theorem fields_eq_of_and_F00F {op m : Word} (h : op &&& 0xF00F#16 = m) :
    familyOf op = familyOf m ∧ nOf op = nOf m := by
  have hm : m = formatXYN (familyOf op).val 0 0 (nOf op) := by simp [← h, and_F00F, formatXYN]
  rw [hm]
  exact ⟨Fin.ext (familyOf_formatXYN (familyOf op).isLt 0 0 _).symm,
    (nOf_formatXYN (familyOf op).isLt 0 0 _).symm⟩

theorem fields_eq_of_and_F0FF {op m : Word} (h : op &&& 0xF0FF#16 = m) :
    familyOf op = familyOf m ∧ kkOf op = kkOf m := by
  have hm : m = formatXK (familyOf op).val 0 (kkOf op) := by simp [← h, and_F0FF, formatXK]
  rw [hm]
  exact ⟨Fin.ext (familyOf_formatXK (familyOf op).isLt 0 _).symm,
    (kkOf_formatXK (familyOf op).isLt 0 _).symm⟩

theorem and_FFFF (op : Word) : op &&& 0xFFFF#16 = op := BitVec.and_allOnes

/-- The `match` of a row is a defined word, and its mask keeps the whole word or the family and the selector
that R51 gives this family: none, the last nibble, or the low byte. -/
def maskFits (p : Word × Word) : Bool :=
  !undefinedWord p.1 &&
  (p.2 == 0xFFFF#16 || p.2 == 0xF000#16 && !([0x5, 0x8, 0x9, 0xE, 0xF].contains (familyOf p.1).val) ||
    p.2 == 0xF00F#16 && [0x5, 0x8, 0x9].contains (familyOf p.1).val ||
    p.2 == 0xF0FF#16 && [0xE, 0xF].contains (familyOf p.1).val)

theorem mapRow_maskFits : ∀ j < 35, maskFits (mapRow j) = true := by decide

/-- A word that matches a row of the rows 1 to 35 is defined: it agrees with the row's `match` in the fields on
which `undefinedWord` looks. -/
theorem undefinedWord_of_rowMatches {op : Word} {j : Nat} (hj : j < 35) (hm : rowMatches op (mapRow j) = true) :
    undefinedWord op = false := by
  have hfit := mapRow_maskFits j hj
  generalize mapRow j = p at hm hfit
  obtain ⟨m, mask⟩ := p
  simp only [rowMatches, maskFits, Bool.and_eq_true, Bool.or_eq_true, beq_iff_eq, Bool.not_eq_true'] at hm hfit
  obtain ⟨hdef, ((rfl | ⟨rfl, hsel⟩) | ⟨rfl, hsel⟩) | ⟨rfl, hsel⟩⟩ := hfit
  · rwa [← hm, and_FFFF] at hdef
  · rw [undefinedWord, familyOf_eq_of_and_F000 hm]
    split <;> simp_all
  · obtain ⟨hf, hn⟩ := fields_eq_of_and_F00F hm
    rw [← hdef, undefinedWord, undefinedWord, hf, hn]
    split <;> simp_all
  · obtain ⟨hf, hk⟩ := fields_eq_of_and_F0FF hm
    rw [← hdef, undefinedWord, undefinedWord, hf, hk]
    split <;> simp_all

/-! ### The first matching row is the instruction's own (R56) -/

open Laws.EncodesItsRow in
theorem encode_matches_own_row (i : Instr) : rowMatches (encode i) (mapRow (i.row - 1)) = true := by
  cases i
  exacts [cls, ret, sys _, jp _, call _, seImm _ _, sneImm _ _, seReg _ _, ldImm _ _, addImm _ _, ldReg _ _,
    orReg _ _, andReg _ _, xorReg _ _, addReg _ _, subReg _ _, shr _ _, subnReg _ _, shl _ _, sneReg _ _, ldI _,
    jpV0 _, rnd _ _, drw _ _ _, skp _, sknp _, ldVxDT _, ldVxK _, ldDTVx _, ldSTVx _, addI _, ldF _, ldB _,
    dumpRegs _, loadRegs _, nop _]

theorem Instr.row_bounds (i : Instr) : 1 ≤ i.row ∧ i.row ≤ 36 := by
  cases i <;> simp [Instr.row]

/-- An instruction of the rows 4 to 35 matches no earlier row, since the rows clash. -/
theorem encode_matches_no_earlier_of_row {i : Instr} (hlo : 4 ≤ i.row) (hhi : i.row ≤ 35) {j : Nat}
    (hj : j < i.row - 1) : rowMatches (encode i) (mapRow j) = false :=
  rowMatches_false_of_clash (mapRow_clash (i.row - 1) (by omega) j (by omega) (by omega) hj.ne')
    (encode_matches_own_row i)

theorem encode_matches_no_earlier_row {i : Instr} (hwf : i.wf = true) {j : Nat} (hj : j < i.row - 1) :
    rowMatches (encode i) (mapRow j) = false := by
  cases i with
  | cls => exact absurd hj (Nat.not_lt_zero j)
  | ret =>
    obtain rfl : j = 0 := Nat.lt_one_iff.mp hj
    rfl
  | sys nnn =>
    obtain ⟨hcls, hret⟩ := (wf_sys_iff nnn).mp hwf
    obtain rfl | rfl : j = 0 ∨ j = 1 := Nat.le_one_iff_eq_zero_or_eq_one.mp (Nat.le_of_lt_succ hj)
    · exact beq_false_of_ne (and_FFFF _ ▸ hcls)
    · exact beq_false_of_ne (and_FFFF _ ▸ hret)
  | nop word =>
    rw [← Bool.not_eq_true]
    intro hm
    exact Bool.false_ne_true ((undefinedWord_of_rowMatches hj hm).symm.trans hwf)
  | _ => exact encode_matches_no_earlier_of_row (by simp [Instr.row]) (by simp [Instr.row]) hj

theorem row_eq_firstMatch_encode {i : Instr} (hwf : i.wf = true) : i.row = firstMatch (encode i) := by
  obtain ⟨hlo, hhi⟩ := i.row_bounds
  have hlt : i.row - 1 < opcodeMap.length := Nat.lt_of_lt_of_le (Nat.sub_one_lt_of_le hlo hhi) (Nat.le_refl 36)
  have hidx : opcodeMap.findIdx (rowMatches (encode i)) = i.row - 1 := by
    refine (List.findIdx_eq hlt).mpr ⟨?_, fun j hj => ?_⟩
    · rw [← List.getD_eq_getElem _ (0, 1)]
      exact encode_matches_own_row i
    · rw [← List.getD_eq_getElem _ (0, 1)]
      exact encode_matches_no_earlier_row hwf hj
  rw [firstMatch, hidx, Nat.sub_add_cancel hlo]

/-- Settles O4: the word is the encoding of its instruction (O3), whose row is the first match. -/
theorem decodeTakesTheFirstMatchingRow : Obligations.DecodeTakesTheFirstMatchingRow := by
  intro op
  obtain ⟨hwf, hop⟩ := decodeWord_standsFor op
  rw [row_eq_firstMatch_encode hwf, hop]

/-! ### Decode of encode (R53, R55) -/

theorem eq_nop_of_row {i : Instr} (h : ¬ i.row - 1 < 35) : i = .nop (encode i) := by
  cases i <;> simp [Instr.row, encode] at *

/-- An undefined word decodes to row 36: the decoded instruction stands for it and so matches its own row, which
is none of the rows 1 to 35 (R57). -/
theorem decodeWord_of_undefinedWord {op : Word} (h : undefinedWord op = true) : decodeWord op = .nop op := by
  obtain ⟨-, hop⟩ := decodeWord_standsFor op
  have hown : rowMatches op (mapRow ((decodeWord op).row - 1)) = true := by
    simpa only [hop] using encode_matches_own_row (decodeWord op)
  have hlast : ¬ (decodeWord op).row - 1 < 35 := fun hlt =>
    Bool.false_ne_true ((undefinedWord_of_rowMatches hlt hown).symm.trans h)
  exact (eq_nop_of_row hlast).trans (congrArg Instr.nop hop)

theorem decodeWord_encode_sys {nnn : Addr12} (hwf : (Instr.sys nnn).wf = true) :
    decodeWord (encode (.sys nnn)) = .sys nnn := by
  obtain ⟨hcls, hret⟩ := (wf_sys_iff nnn).mp hwf
  simp [encode, decodeWord, familyOf_formatA, nnnOf_formatA, hcls, hret]

/-- Settles O2, format by format: the decoder reads back the family and the operands that the format placed
(R53); SYS and the undefined words need their well-formedness. -/
theorem decodeOfEncodeIsTheInstruction : Obligations.DecodeOfEncodeIsTheInstruction := by
  intro i hwf
  cases i with
  | cls | ret => rfl
  | sys => exact decodeWord_encode_sys hwf
  | nop => exact decodeWord_of_undefinedWord hwf
  | jp | call | ldI | jpV0 => simp [encode, decodeWord, familyOf_formatA, nnnOf_formatA]
  | seReg | sneReg | ldReg | orReg | andReg | xorReg | addReg | subReg | shr | subnReg | shl | drw =>
    simp [encode, decodeWord, familyOf_formatXYN, xOf_formatXYN, yOf_formatXYN, nOf_formatXYN]
  | seImm | sneImm | ldImm | addImm | rnd | skp | sknp | ldVxDT | ldVxK | ldDTVx | ldSTVx | addI | ldF | ldB
  | dumpRegs | loadRegs =>
    simp [encode, decodeWord, familyOf_formatXK, xOf_formatXK, kkOf_formatXK]

/-- Settles O1: the decoder computes each of the twenty words. -/
theorem wordsOfTheSpecDecode : Obligations.WordsOfTheSpecDecode := by
  unfold Obligations.WordsOfTheSpecDecode
  decide

end Sys2Proof

/-! PROOFS. Control flow (40_flow.md): what a step runs (O6, O8, O9), sequential flow (O14), the no-ops, skips
and jumps (O16 to O20) and subroutines (O21, O22, O24, O25). -/

namespace Sys2Proof.Machine

/-! ### One step (R70, R142) -/

/-- A step request whose engine answers `r`: the next inputs arrive in the answer (R142). -/
theorem step_of_engine {s : State} {r : Result} (hrst : s.beginStep.rst = false)
    (hr : engineStep s.beginStep = r) : step s = Result.map State.nextInput r := by
  rw [step, stepRequest, requestedStep, hrst, ← hr]
  rfl

/-- The engine runs the word it fetches, unless a fault is latched (R70). -/
theorem engineStep_of_fetch {s : State} {op : Word} (hrun : s.running) (hf : s.fetch = some op) :
    engineStep s = exec (decodeWord op) s := by
  rw [engineStep, hrun, hf]
  rfl

/-- Settles O6: the bytes at `pc` are the word fetched. -/
theorem stepRunsTheDecodedInstruction : Obligations.StepRunsTheDecodedInstruction := by
  intro s i rest hrst hrun hpc hdec
  obtain ⟨rfl, -⟩ := Prod.mk.inj (Except.ok.inj hdec)
  exact step_of_engine hrst (engineStep_of_fetch hrun (State.fetch_eq_some hpc))

theorem engineStep_hasNext (s : State) : ∃ t, engineStep s = .next t := by
  obtain ⟨-, h⟩ | ⟨-, -, h⟩ | ⟨op, -, -, h⟩ := engineStep_cases s
  · exact ⟨_, h⟩
  · exact ⟨_, h⟩
  · obtain ⟨t, ht, -⟩ := exec_hasEffect (decodeWord op) s
    exact ⟨t, h.trans ht⟩

theorem requestedStep_hasNext (s : State) : ∃ t, requestedStep s = .next t := by
  obtain ⟨-, h⟩ | ⟨-, h⟩ := requestedStep_cases s
  · exact ⟨_, h⟩
  · rw [h]; exact engineStep_hasNext s

/-- Settles O9: the engine answers every request, held in reset or not. -/
theorem everyStepHasANextState : Obligations.EveryStepHasANextState := by
  intro s
  obtain ⟨t, ht⟩ := requestedStep_hasNext s.beginStep
  exact ⟨t.nextInput, by rw [step, stepRequest, ht]; rfl⟩

/-! ### A placed word is the next one fetched (R33, R71) -/

/-- Events that are all ticks are one burst of as many ticks as they hold (R148). -/
theorem State.hostEvents_of_allTicks {es : List HostEvent} (h : es.all HostEvent.isTicks = true) (s : State) :
    s.hostEvents es = s.ticks (tickCount es) := by
  induction es generalizing s with
  | nil => simp [tickCount, State.ticks, State.setDT, State.setST]
  | cons e es ih =>
    obtain ⟨he, hes⟩ := Bool.and_eq_true_iff.mp h
    cases e with
    | ticks n => rw [State.hostEvents_cons, ih hes]; exact State.ticks_ticks s n (tickCount es)
    | assertReset | releaseReset => cases he

/-- With no change of `rst` before it, a step begins with the end of the pulse and a burst of ticks (R143). -/
theorem State.beginStep_of_noReset {s : State} (h : s.noReset) :
    s.beginStep = ((s.setFbPush false).ticks (tickCount s.now.before)).clearEvents :=
  congrArg State.clearEvents (State.hostEvents_of_allTicks h _)

theorem State.readied_running (s : State) : s.readied.running := by
  unfold State.running State.readied
  cases h : s.fault.valid <;> simp [h, FaultLatch.none]

theorem State.readied_pc_le (s : State) : s.readied.pc.toNat ≤ 0xFFE := by
  unfold State.readied lastFetch
  dsimp only
  split
  · assumption
  · decide

theorem State.readied_noReset (s : State) : s.readied.noReset :=
  List.all_eq_true.mpr fun _ he => (List.mem_filter.mp he).2

/-- The two bytes at `pc` after an opcode was stored there: its own, high byte first (R33, R36). -/
theorem State.readByte_placeOpcode {s : State} {op : Word} (hwf : s.mem.wf s.cfg = true)
    (hpc : s.pc.toNat ≤ 0xFFE) :
    (s.placeOpcode op).readByte s.pc.toNat = hiByte op ∧
      (s.placeOpcode op).readByte (s.pc.toNat + 1) = loByte op := by
  have hin : s.pc.toNat + [hiByte op, loByte op].length ≤ memSize := Nat.add_le_add_right hpc 2
  have hread (a : Nat) : (s.placeOpcode op).readByte a = _ := Memory.read_writeBytes a hin hwf
  exact ⟨(hread s.pc.toNat).trans (by simp), (hread (s.pc.toNat + 1)).trans (by simp)⟩

theorem State.withFetchWord_eq (s : State) (w : Nat) :
    s.withFetchWord 16 w = s.readied.placeOpcode (BitVec.ofNat 16 w) := by
  have hw : BitVec.ofNat 16 (w % 2 ^ 16) = BitVec.ofNat 16 w := by
    apply BitVec.eq_of_toNat_eq
    simp
  rw [State.withFetchWord, hw]

/-- Settles O8: the word stands at `pc`, and with only ticks before the step it is still the one decoded there
(O6). -/
theorem placedWordRunsNext : Obligations.PlacedWordRunsNext := by
  intro s w hwf
  rw [State.withFetchWord_eq]
  have hpc := s.readied_pc_le
  obtain ⟨hhi, hlo⟩ := State.readByte_placeOpcode (s := s.readied) (op := BitVec.ofNat 16 w) hwf hpc
  have hdec : decodeBytes [hiByte (BitVec.ofNat 16 w), loByte (BitVec.ofNat 16 w)] =
      .ok (decodeWord (BitVec.ofNat 16 w), []) := by rw [decodeBytes, opcodeOf_bytes]
  rw [← hhi, ← hlo] at hdec
  have hbegin := State.beginStep_of_noReset (s := s.readied.placeOpcode (BitVec.ofNat 16 w)) s.readied_noReset
  refine stepRunsTheDecodedInstruction _ _ [] ?_ ?_ ?_ ?_ <;> rw [hbegin]
  · rfl
  · exact s.readied_running
  · exact hpc
  · exact hdec

/-! ### Sequential flow (R70) -/

/-- An access with its range check goes on to the next instruction when the access does, or raises a fatal
condition. -/
theorem withDataRange_sequential_or_fatal {i : Instr} {s : State} (len : Nat) {access : State → Result}
    (h : ∃ u, access s = sequential u ∧ u.pc = s.pc) :
    (∃ u, withDataRange len i s access = sequential u ∧ u.pc = s.pc) ∨
      (∃ cause, withDataRange len i s access = fatal cause i s) := by
  obtain ⟨-, hacc⟩ | ⟨-, hoob⟩ := withDataRange_cases len i s access
  · exact .inl (hacc ▸ h)
  · exact .inr ⟨_, hoob⟩

/-- What an instruction with no `pc` of its own can do: go on to the next one, or raise a fatal condition (R14,
R70). -/
theorem exec_sequential_or_fatal {i : Instr} (s : State) (h : i.ownPc = false) :
    (∃ u, exec i s = sequential u ∧ u.pc = s.pc) ∨ (∃ cause, exec i s = fatal cause i s) := by
  cases i with
  | ret | jp | call | jpV0 | seImm | sneImm | seReg | sneReg | skp | sknp | ldVxK => cases h
  | drw x y n => rw [exec_drw]; exact withDataRange_sequential_or_fatal n.val ⟨_, rfl, rfl⟩
  | ldB x => rw [exec_ldB]; exact withDataRange_sequential_or_fatal 3 ⟨_, rfl, rfl⟩
  | dumpRegs x => rw [exec_dumpRegs]; exact withDataRange_sequential_or_fatal (x.val + 1) ⟨_, rfl, rfl⟩
  | loadRegs x => rw [exec_loadRegs]; exact withDataRange_sequential_or_fatal (x.val + 1) ⟨_, rfl, rfl⟩
  | _ => exact .inl ⟨_, rfl, rfl⟩

/-- Settles O14: a fatal condition would have set the latch. -/
theorem sequentialFlowAdvancesByTwo : Obligations.SequentialFlowAdvancesByTwo := by
  intro i s t hown h hv
  obtain ⟨u, hu, hpc⟩ | ⟨cause, hf⟩ := exec_sequential_or_fatal s hown
  · obtain rfl := Host.Outcome.next.inj (hu.symm.trans h)
    rw [State.advance_pc, hpc]
  · obtain rfl := Host.Outcome.next.inj (hf.symm.trans h)
    cases hv

/-! ### No-ops, skips, jumps (R73 to R82) -/

/-- Settles O16: with 0E0 and 0EE excluded SYS is well-formed, so its word decodes to it (O2). -/
theorem sysIsANoOp : Obligations.SysIsANoOp := by
  intro nnn s hcls hret
  have hwf : (Instr.sys nnn).wf = true := by
    rw [Instr.wf, Bool.and_eq_true, bne_iff_ne, bne_iff_ne]
    exact ⟨hcls, hret⟩
  exact ⟨decodeWord_encode_sys hwf, rfl⟩

/-- Settles O17: such a word matches none of the rows 1 to 35. -/
theorem undefinedWordsAreNoOps : Obligations.UndefinedWordsAreNoOps :=
  fun _ _ h => ⟨decodeWord_of_undefinedWord h, rfl⟩

theorem skipIf_of_true {c : Bool} (s : State) (h : c = true) : skipIf c s = .next { s with pc := s.pc + 4 } := by
  have hpc : s.npc + 2 = s.pc + 4 := BitVec.add_assoc s.pc 2 2
  rw [skipIf, if_pos h, hpc]
  rfl

theorem skipIf_of_false {c : Bool} (s : State) (h : c = false) : skipIf c s = .next { s with pc := s.pc + 2 } := by
  rw [skipIf, h]
  rfl

/-- A skip on `a = b` and one on `a ≠ b`, when the bytes are the same (40_flow.md section 5). -/
theorem skips_of_eq {a b : Byte} (s : State) (h : a = b) :
    skipIf (a == b) s = .next { s with pc := s.pc + 4 } ∧ skipIf (a != b) s = .next { s with pc := s.pc + 2 } :=
  ⟨skipIf_of_true s (beq_iff_eq.mpr h), skipIf_of_false s (bne_eq_false_iff_eq.mpr h)⟩

/-- The same two skips when the bytes differ. -/
theorem skips_of_ne {a b : Byte} (s : State) (h : a ≠ b) :
    skipIf (a == b) s = .next { s with pc := s.pc + 2 } ∧ skipIf (a != b) s = .next { s with pc := s.pc + 4 } :=
  ⟨skipIf_of_false s (beq_false_of_ne h), skipIf_of_true s (bne_iff_ne.mpr h)⟩

/-- Settles O18: both skips test `V[x]` against the immediate. -/
theorem immediateSkips : Obligations.ImmediateSkips := fun x kk s =>
  ⟨decodeOfEncodeIsTheInstruction (.seImm x kk) rfl, decodeOfEncodeIsTheInstruction (.sneImm x kk) rfl,
    skips_of_eq s, skips_of_ne s⟩

/-- In families 5 and 9 a word with a fourth nibble other than 0 is undefined (R57). -/
theorem undefinedWord_formatXYN {f : Nat} (hf : f = 0x5 ∨ f = 0x9) (x y : Reg) {n : Fin 16} (hn : n ≠ 0) :
    undefinedWord (formatXYN f x y n) = true := by
  have hlt : f < 16 := by omega
  rw [undefinedWord, familyOf_formatXYN hlt, nOf_formatXYN hlt]
  obtain rfl | rfl := hf
  · exact bne_iff_ne.mpr hn
  · exact bne_iff_ne.mpr hn

/-- Settles O19: both skips test `V[x]` against `V[y]`, and any other fourth nibble makes an undefined word. -/
theorem registerSkips : Obligations.RegisterSkips := fun x y s =>
  ⟨fun _ hn => ⟨decodeWord_of_undefinedWord (undefinedWord_formatXYN (.inl rfl) x y hn),
      decodeWord_of_undefinedWord (undefinedWord_formatXYN (.inr rfl) x y hn)⟩,
    decodeOfEncodeIsTheInstruction (.seReg x y) rfl, decodeOfEncodeIsTheInstruction (.sneReg x y) rfl,
    skips_of_eq s, skips_of_ne s⟩

@[simp] theorem zext12_toNat (nnn : Addr12) : (zext12 nnn).toNat = nnn.toNat :=
  BitVec.toNat_setWidth_of_le (by decide)

@[simp] theorem zext8_toNat (v : Byte) : (zext8 v).toNat = v.toNat :=
  BitVec.toNat_setWidth_of_le (by decide)

/-- The target of JP V0 is below 0x10FF, so the 16-bit sum is exact (R81). -/
theorem jpV0_target_toNat (nnn : Addr12) (v : Byte) : (zext12 nnn + zext8 v).toNat = nnn.toNat + v.toNat := by
  rw [BitVec.toNat_add, zext12_toNat, zext8_toNat, Nat.mod_eq_of_lt (by omega)]

/-- Settles O20: both targets fit 16 bits. -/
theorem jumpTargets : Obligations.JumpTargets := fun nnn s =>
  ⟨decodeOfEncodeIsTheInstruction (.jp nnn) rfl, decodeOfEncodeIsTheInstruction (.jpV0 nnn) rfl,
    ⟨_, rfl, rfl, zext12_toNat nnn⟩, ⟨_, rfl, rfl, jpV0_target_toNat nnn (s.reg 0)⟩⟩

/-! ### CALL and RET (R74, R76) -/

theorem exec_call_of_room (nnn : Addr12) {s : State} (h : s.sp ≠ 15) :
    exec (.call nnn) s = .next (((s.setStackAt s.sp s.npc).setSp (s.sp + 1)).setPc (zext12 nnn)) :=
  if_neg h

theorem exec_call_of_full (nnn : Addr12) {s : State} (h : s.sp = 15) :
    exec (.call nnn) s = .next (s.raiseFatal .stackOverflow (encode (.call nnn))) :=
  if_pos h

theorem exec_ret_of_held {s : State} (h : s.sp ≠ 0) :
    exec .ret s = .next ((s.setPc (s.stackAt (s.sp - 1))).setSp (s.sp - 1)) :=
  if_neg h

theorem exec_ret_of_empty {s : State} (h : s.sp = 0) :
    exec .ret s = .next (s.raiseFatal .stackUnderflow (encode .ret)) :=
  if_pos h

/-- Settles O21: below the limit `sp + 1` does not wrap, and entry `sp` alone is written. -/
theorem callPushesTheReturnAddress : Obligations.CallPushesTheReturnAddress := by
  refine fun nnn s => ⟨decodeOfEncodeIsTheInstruction (.call nnn) rfl, fun hroom => ?_⟩
  have hsp : (s.sp + 1).toNat = s.sp.toNat + 1 := BitVec.toNat_add_of_lt (Nat.succ_lt_succ hroom)
  refine ⟨_, exec_call_of_room nnn (by rintro h; simp [h] at hroom), rfl, ?_, fun k hk => ?_, hsp, zext12_toNat nnn⟩
  · exact State.stackAt_setStackAt_same s s.sp s.npc
  · exact State.stackAt_setStackAt_ne s s.npc hk

/-- Settles O22: with an address held `sp - 1` does not wrap. -/
theorem returnPopsTheAddress : Obligations.ReturnPopsTheAddress := by
  refine ⟨rfl, fun s => ⟨fun hheld => ?_, fun hempty => ⟨_, exec_ret_of_empty hempty, rfl, rfl⟩⟩⟩
  have hsp : (s.sp - 1).toNat + 1 = s.sp.toNat := by
    rw [BitVec.toNat_sub_of_le hheld]; exact Nat.sub_add_cancel hheld
  exact ⟨_, exec_ret_of_held (by rintro h; simp [h] at hheld), rfl, hsp, rfl⟩

/-! ### Runs of calls and of returns (R84) -/

/-- `t` is `s` but for the stack, `sp` and `pc`: the frame of calls and returns. -/
def State.sameButFlow (s t : State) : Prop := t = { s with stack := t.stack, sp := t.sp, pc := t.pc }

theorem State.sameButFlow.trans {s t u : State} (hst : s.sameButFlow t) (htu : t.sameButFlow u) :
    s.sameButFlow u := by
  unfold State.sameButFlow at *
  rw [htu, hst]

theorem execAll_cons_of_next {i : Instr} {s t : State} (is : List Instr) (h : exec i s = .next t) :
    execAll s (i :: is) = execAll t is := by
  rw [execAll, h]

theorem execAll_append_of_next {s t : State} {is : List Instr} (js : List Instr) (h : execAll s is = .next t) :
    execAll s (is ++ js) = execAll t js := by
  induction is generalizing s with
  | nil => rw [Host.Outcome.next.inj h]; rfl
  | cons i is ih =>
    obtain ⟨u, hu, -⟩ := exec_hasEffect i s
    rw [execAll_cons_of_next is hu] at h
    rw [List.cons_append, execAll_cons_of_next _ hu, ih h]

/-- The first call pushes the address after itself; the later ones push what they would from its target (R76). -/
theorem returnAddresses_cons {s t : State} (nnn : Addr12) (targets : List Addr12)
    (hpc : t.pc.toNat = nnn.toNat) :
    returnAddresses s (nnn :: targets) = (s.pc + 2) :: returnAddresses t targets := by
  have ht : t.pc = zext12 nnn := BitVec.eq_of_toNat_eq (by rw [hpc, zext12_toNat])
  simp [returnAddresses, ht]

/-- What a run of calls within the room of the stack leaves: their return addresses from entry `sp` on, in the
order of the calls, over the entries held before. -/
theorem execAll_calls (targets : List Addr12) (s : State) (hroom : s.sp.toNat + targets.length ≤ 15) :
    ∃ u, execAll s (targets.map Instr.call) = .next u ∧ s.sameButFlow u ∧
      u.sp.toNat = s.sp.toNat + targets.length ∧
      (∀ k : BitVec 4, k.toNat < s.sp.toNat → u.stackAt k = s.stackAt k) ∧
      (∀ (k : BitVec 4) (j : Nat), k.toNat = s.sp.toNat + j → j < targets.length →
        (returnAddresses s targets)[j]? = some (u.stackAt k)) := by
  induction targets generalizing s with
  | nil => exact ⟨s, rfl, rfl, rfl, fun _ _ => rfl, fun _ _ _ h => absurd h (Nat.not_lt_zero _)⟩
  | cons nnn targets ih =>
    rw [List.length_cons] at hroom ⊢
    obtain ⟨-, hcall⟩ := callPushesTheReturnAddress nnn s
    obtain ⟨t, ht, hframe, htop, hother, hsp, hpc⟩ := hcall (by omega)
    obtain ⟨u, hu, hframe', hsp', hbelow, hpushed⟩ := ih t (by omega)
    refine ⟨u, (execAll_cons_of_next _ ht).trans hu, State.sameButFlow.trans hframe hframe', by omega,
      fun k hk => ?_, fun k j hk hj => ?_⟩
    · have hne : k ≠ s.sp := by rintro rfl; omega
      rw [hbelow k (by omega), hother k hne]
    · rw [returnAddresses_cons nnn targets hpc]
      cases j with
      | zero =>
        obtain rfl : k = s.sp := BitVec.eq_of_toNat_eq hk
        rw [hbelow s.sp (by omega), htop]
        rfl
      | succ j => exact hpushed k j (by omega) (by omega)

/-- What `k` returns leave when `k` addresses are held: the stack as it was, and `pc` at the address that the last
of them popped. -/
theorem execAll_returns (k : Nat) (s : State) (hheld : k ≤ s.sp.toNat) :
    ∃ u, execAll s (List.replicate k Instr.ret) = .next u ∧ s.sameButFlow u ∧ u.sp.toNat + k = s.sp.toNat ∧
      (∀ j, u.stackAt j = s.stackAt j) ∧ (1 ≤ k → u.pc = s.stackAt u.sp) := by
  induction k generalizing s with
  | zero => exact ⟨s, rfl, rfl, rfl, fun _ => rfl, fun h => absurd h (by decide)⟩
  | succ k ih =>
    obtain ⟨u, hu, hframe, hsp, hstack, -⟩ := ih s (by omega)
    obtain ⟨-, hret⟩ := returnPopsTheAddress
    obtain ⟨t, ht, hframe', hsp', hpc⟩ := (hret u).left (by omega)
    have hframe'' : u.sameButFlow t := by rw [State.sameButFlow, hframe']
    have hstack' (j : BitVec 4) : t.stackAt j = u.stackAt j := by rw [hframe']; rfl
    refine ⟨t, ?_, hframe.trans hframe'', by omega, fun j => ?_, fun _ => ?_⟩
    · rw [List.replicate_succ', execAll_append_of_next _ hu, execAll_cons_of_next _ ht, execAll]
    · rw [hstack', hstack]
    · rw [hpc, hstack]

/-- After calls within the room of the stack and no more returns than calls, `pc` is the address after the call
that the last return matches, and only the stack, `sp` and `pc` have changed. -/
theorem execAll_calls_returns (targets : List Addr12) (s : State) {k : Nat}
    (hroom : s.sp.toNat + targets.length ≤ 15) (hk : k ≤ targets.length) :
    ∃ u, execAll s (targets.map Instr.call ++ List.replicate k Instr.ret) = .next u ∧ s.sameButFlow u ∧
      u.sp.toNat + k = s.sp.toNat + targets.length ∧
      (1 ≤ k → (returnAddresses s targets)[targets.length - k]? = some u.pc) := by
  obtain ⟨t, ht, hframe, hsp, -, hpushed⟩ := execAll_calls targets s hroom
  obtain ⟨u, hu, hframe', hsp', -, hpc⟩ := execAll_returns k t (by omega)
  refine ⟨u, (execAll_append_of_next _ ht).trans hu, hframe.trans hframe', by omega, fun h1 => ?_⟩
  rw [hpc h1]
  exact hpushed u.sp _ (by omega) (by omega)

/-- Settles O24: the calls push their return addresses in order, and the returns pop them from the end. -/
theorem nestedCallsReturnInReverseOrder : Obligations.NestedCallsReturnInReverseOrder := by
  intro targets s k hroom h1 hk
  obtain ⟨u, hu, hframe, hsp, hpc⟩ := execAll_calls_returns targets s hroom hk
  exact ⟨u, hu, hframe, hsp, hpc h1⟩

/-- Settles O25: the returns leave `sp` at 0 again. -/
theorem oneReturnTooManyUnderflows : Obligations.OneReturnTooManyUnderflows := by
  intro targets s h0 hN
  have hs : s.sp.toNat = 0 := by rw [h0]; rfl
  obtain ⟨u, hu, -, hsp, -⟩ := execAll_calls_returns targets s (k := targets.length) (by omega) le_rfl
  have hempty : u.sp = 0 := BitVec.eq_of_toNat_eq (show u.sp.toNat = 0 by omega)
  exact ⟨u, hu, exec_ret_of_empty hempty⟩

end Sys2Proof.Machine

/-! PROOFS. The invariant (10_state.md R23, 40_flow.md R83): every step keeps it (O59). -/

namespace Sys2Proof.Machine

/-! ### The fault latch (R161, R166) -/

theorem FatalCause.code_bounds (cause : FatalCause) : 1 ≤ cause.code.toNat ∧ cause.code.toNat ≤ 5 := by
  cases cause <;> decide

theorem State.latchInv_of_none {s : State} (h : s.fault = FaultLatch.none) : s.latchInv :=
  ⟨fun _ => h, fun hv => by rw [h] at hv; cases hv⟩

/-- A latch that holds a cause of R161 and, unless the load failed, the address that `pc` points to. -/
theorem State.latchInv_of_cause {s : State} (cause : FatalCause) (hv : s.fault.valid = true)
    (hc : s.fault.cause = cause.code) (ha : cause ≠ .romTooLarge → s.fault.addr = s.pc) : s.latchInv := by
  obtain ⟨hlo, hhi⟩ := cause.code_bounds
  refine ⟨fun hv' => absurd (hv.symm.trans hv') (by decide), fun _ => ?_⟩
  rw [hc]
  exact ⟨hlo, hhi, fun hne => ha fun e => hne (congrArg FatalCause.code e)⟩

theorem State.latchInv_raiseFatal (s : State) (cause : FatalCause) (op : Word) : (s.raiseFatal cause op).latchInv :=
  State.latchInv_of_cause cause rfl rfl fun _ => rfl

theorem State.latchInv_assertReset (s : State) (rom : List Byte) : (s.assertReset rom).latchInv := by
  by_cases hfit : rom.length ≤ maxRomLength
  · exact State.latchInv_of_none (if_pos hfit)
  · have hf : (s.assertReset rom).fault = _ := if_neg hfit
    exact State.latchInv_of_cause .romTooLarge (by rw [hf]) (by rw [hf]) fun hne => absurd rfl hne

/-! ### What comes before a step and after it (R143) -/

/-- The invariant does not look at the inputs. -/
theorem State.Inv.setInputs {s : State} (h : s.Inv) (n : StepInput) (l : List StepInput) (q : Nat) :
    ({ s with now := n, later := l, seq := q } : State).Inv :=
  { h with
    held := fun hrst => by
      obtain ⟨u, rom, hs⟩ := h.held hrst
      exact ⟨u, rom, by rw [hs]⟩ }

theorem State.assertReset_inv (s : State) (rom : List Byte) : (s.assertReset rom).Inv where
  mem := s.resetWith_mem_wf rom
  fb := Frame.wf_blank _ _
  pc := by rw [State.assertReset_pc]; decide
  stack k := by rw [State.assertReset_stackAt]; decide
  stackTop := s.assertReset_stackAt rom 15
  latch := s.latchInv_assertReset rom
  held _ := ⟨s, rom, rfl⟩

/-- What a block held in reset holds in the fields that ticks and the end of the pulse write (R190). -/
theorem State.heldInReset.timers_and_pulse {s : State} (h : s.heldInReset) :
    s.DT = 0 ∧ s.ST = 0 ∧ s.fbPush = false := by
  obtain ⟨u, rom, hs⟩ := h
  rw [hs]
  exact ⟨rfl, rfl, rfl⟩

/-- Ticks leave a block held in reset as it is. -/
theorem State.heldInReset.ticks_eq {s : State} (h : s.heldInReset) (n : Nat) : s.ticks n = s := by
  obtain ⟨hDT, hST, -⟩ := h.timers_and_pulse
  have hD : countDown n s.DT = s.DT := by simp [hDT, countDown]
  have hS : countDown n s.ST = s.ST := by simp [hST, countDown]
  rw [State.ticks, hD, hS]
  rfl

/-- So does the end of a pulse. -/
theorem State.heldInReset.setFbPush_eq {s : State} (h : s.heldInReset) : s.setFbPush false = s := by
  obtain ⟨-, -, hpush⟩ := h.timers_and_pulse
  rw [State.setFbPush, ← hpush]

theorem State.Inv.ticks {s : State} (h : s.Inv) (n : Nat) : (s.ticks n).Inv :=
  { h with held := fun hrst => by rw [(h.held hrst).ticks_eq n]; exact h.held hrst }

theorem State.Inv.setFbPush {s : State} (h : s.Inv) : (s.setFbPush false).Inv :=
  { h with held := fun hrst => by rw [(h.held hrst).setFbPush_eq]; exact h.held hrst }

theorem State.Inv.releaseReset {s : State} (h : s.Inv) : (s.setRst false).Inv :=
  { h with held := fun hrst => by cases hrst }

theorem State.Inv.beginStep {s : State} (h : s.Inv) : s.beginStep.Inv := by
  have hev : ((s.setFbPush false).hostEvents s.now.before).Inv :=
    State.hostEvents_keep (P := State.Inv) (fun _ n h => h.ticks n) (fun s rom _ => s.assertReset_inv rom)
      (fun _ h => h.releaseReset) _ _ h.setFbPush
  exact hev.setInputs _ _ _

theorem State.Inv.nextInput {s : State} (h : s.Inv) : s.nextInput.Inv := by
  obtain ⟨n, l, q, heq⟩ := s.nextInput_eq
  rw [heq]
  exact h.setInputs n l q

/-! ### What an instruction does to each part of the invariant -/

/-- The inversion of an access with its range check: the access was made inside memory, or it raised `DATA_OOB`
(R38, R165). -/
theorem withDataRange_next {len : Nat} {i : Instr} {s t : State} {access : State → Result}
    (h : withDataRange len i s access = .next t) :
    ((len = 0 ∨ s.I.toNat + len ≤ memSize) ∧ access s = .next t) ∨ t = s.raiseFatal .dataOob (encode i) := by
  obtain ⟨hok, hacc⟩ | ⟨-, hoob⟩ := withDataRange_cases len i s access
  · exact .inl ⟨(dataRangeOK_iff _ _).mp hok, hacc.symm.trans h⟩
  · exact .inr (Host.Outcome.next.inj (h.symm.trans hoob))

/-- A store of `len` bytes from `I` on, with its range check, keeps memory in its canonical form (R38). -/
theorem withDataRange_store_wf {len : Nat} {i : Instr} {s t : State} {bytes : State → List Byte}
    (hwf : s.mem.wf s.cfg = true) (hlen : (bytes s).length = len) (hpos : 0 < len)
    (h : withDataRange len i s (fun s => sequential (s.writeAtI (bytes s))) = .next t) :
    t.mem.wf t.cfg = true := by
  obtain ⟨hin, hacc⟩ | rfl := withDataRange_next h
  · obtain rfl := Host.Outcome.next.inj hacc
    exact State.writeAtI_mem_wf hwf (by omega)
  · exact hwf

/-- Memory keeps its canonical form: only the two stores write it, inside its range (R12, R38). -/
theorem exec_keeps_mem_wf {i : Instr} {s t : State} (hwf : s.mem.wf s.cfg = true) (h : exec i s = .next t) :
    t.mem.wf t.cfg = true := by
  obtain ⟨hmem, -, -, -, -, -, hcfg, -⟩ := eachStateHasItsOwnWriters i s t h
  by_cases hm : t.mem = s.mem
  · rw [hm, hcfg]; exact hwf
  · obtain ⟨x, rfl⟩ | ⟨x, rfl⟩ := hmem hm
    · exact withDataRange_store_wf (len := 3) (bytes := fun s => decimalDigits (s.reg x)) hwf rfl (by decide) h
    · exact withDataRange_store_wf (bytes := (State.regsTo · x)) hwf (s.regsTo_length x) x.val.succ_pos h

/-- The grid keeps its size: only CLS and DRW write it (R19). -/
theorem exec_keeps_fb_wf {i : Instr} {s t : State} (hwf : s.fb.wf s.cfg.fbWidth s.cfg.fbHeight)
    (h : exec i s = .next t) : t.fb.wf t.cfg.fbWidth t.cfg.fbHeight := by
  obtain ⟨-, hfb, -, -, -, -, hcfg, -⟩ := eachStateHasItsOwnWriters i s t h
  rw [hcfg]
  by_cases hf : t.fb = s.fb
  · rw [hf]; exact hwf
  · obtain rfl | ⟨x, y, n, rfl⟩ := hfb (.inl hf)
    · obtain rfl := Host.Outcome.next.inj h
      exact Frame.wf_blank _ _
    · obtain ⟨-, hacc⟩ | rfl := withDataRange_next (exec_drw x y n s ▸ h)
      · obtain rfl := Host.Outcome.next.inj hacc
        exact Frame.wf_drawSprite hwf _ _ _
      · exact hwf

/-- What an instruction can do to the stack: leave it, or push the address after itself on an entry below the last
one (R76, R16). -/
theorem exec_stackAt_cases {i : Instr} {s t : State} (h : exec i s = .next t) :
    (∀ k, t.stackAt k = s.stackAt k) ∨
    (s.sp ≠ 15 ∧ t.stackAt s.sp = s.pc + 2 ∧ ∀ k, k ≠ s.sp → t.stackAt k = s.stackAt k) := by
  by_cases hcall : ∃ nnn, i = .call nnn
  · obtain ⟨nnn, rfl⟩ := hcall
    by_cases hfull : s.sp = 15
    · obtain rfl := Host.Outcome.next.inj ((exec_call_of_full nnn hfull).symm.trans h)
      exact .inl fun _ => rfl
    · obtain rfl := Host.Outcome.next.inj ((exec_call_of_room nnn hfull).symm.trans h)
      exact .inr ⟨hfull, s.stackAt_setStackAt_same s.sp s.npc, fun k hk => s.stackAt_setStackAt_ne s.npc hk⟩
  · cases exec_next_effect h with
    | push _ _ writer => exact absurd writer hcall
    | _ => exact .inl fun _ => rfl

/-- What an instruction can do to the latch: leave it, or raise a fatal condition (R166). -/
theorem exec_fault_cases {i : Instr} {s t : State} (h : exec i s = .next t) :
    t.fault = s.fault ∨ ∃ cause, t = s.raiseFatal cause (encode i) := by
  cases exec_next_effect h with
  | fatal cause => exact .inr ⟨cause, rfl⟩
  | _ => exact .inl rfl

theorem add_two_toNat {pc : Word} (h : pc.toNat ≤ 0x1002) : (pc + 2).toNat = pc.toNat + 2 :=
  BitVec.toNat_add_of_lt (by simp; omega)

/-- A skip from where a fetch succeeds leads to 0x1002 at most (R83). -/
theorem skipIf_pc_le {c : Bool} {s t : State} (hpc : s.pc.toNat ≤ 0xFFE) (h : skipIf c s = .next t) :
    t.pc.toNat ≤ 0x1002 := by
  have h2 : s.npc.toNat = s.pc.toNat + 2 := add_two_toNat (by omega)
  obtain rfl := Host.Outcome.next.inj h
  rw [State.setPc_pc]
  split
  · rw [add_two_toNat (by omega)]; omega
  · omega

/-- What the wait for a key can do: hold, or write the key and go on (R132). -/
theorem exec_ldVxK_cases (x : Reg) (s : State) :
    exec (.ldVxK x) s = .next s ∨ ∃ v, exec (.ldVxK x) s = sequential (s.setReg x v) := by
  change execLdVxK x s = _ ∨ ∃ v, execLdVxK x s = _
  unfold execLdVxK
  cases firstHeldKey s with
  | none => exact .inl rfl
  | some k => exact .inr ⟨_, rfl⟩

/-- An instruction with a `pc` of its own, run from where a fetch succeeds, leaves `pc` at 0x10FE at most, which
is the highest target of JP V0 (R83). -/
theorem exec_pc_le_of_ownPc {i : Instr} {s t : State} (hown : i.ownPc = true) (hpc : s.pc.toNat ≤ 0xFFE)
    (hstack : ∀ k, (s.stackAt k).toNat ≤ 0x1000) (h : exec i s = .next t) : t.pc.toNat ≤ 0x10FE := by
  cases i with
  | seImm | sneImm | seReg | sneReg | skp | sknp => exact (skipIf_pc_le hpc h).trans (by decide)
  | jp nnn =>
    obtain rfl := Host.Outcome.next.inj h
    rw [State.setPc_pc, zext12_toNat]; omega
  | jpV0 nnn =>
    obtain rfl := Host.Outcome.next.inj h
    rw [State.setPc_pc, jpV0_target_toNat]; omega
  | call nnn =>
    by_cases hfull : s.sp = 15
    · obtain rfl := Host.Outcome.next.inj ((exec_call_of_full nnn hfull).symm.trans h)
      rw [State.raiseFatal_pc]; omega
    · obtain rfl := Host.Outcome.next.inj ((exec_call_of_room nnn hfull).symm.trans h)
      rw [State.setPc_pc, zext12_toNat]; omega
  | ret =>
    by_cases hempty : s.sp = 0
    · obtain rfl := Host.Outcome.next.inj ((exec_ret_of_empty hempty).symm.trans h)
      rw [State.raiseFatal_pc]; omega
    · obtain rfl := Host.Outcome.next.inj ((exec_ret_of_held hempty).symm.trans h)
      exact (hstack (s.sp - 1)).trans (by decide)
  | ldVxK x =>
    obtain hhold | ⟨v, hgo⟩ := exec_ldVxK_cases x s
    · obtain rfl := Host.Outcome.next.inj (hhold.symm.trans h)
      omega
    · obtain rfl := Host.Outcome.next.inj (hgo.symm.trans h)
      rw [State.advance_pc, State.setReg_pc, add_two_toNat (by omega)]; omega
  | _ => cases hown

/-- The bound of R83: an instruction run from where a fetch succeeds leaves `pc` at 0x10FE at most. -/
theorem exec_pc_le {i : Instr} {s t : State} (hpc : s.pc.toNat ≤ 0xFFE)
    (hstack : ∀ k, (s.stackAt k).toNat ≤ 0x1000) (h : exec i s = .next t) : t.pc.toNat ≤ 0x10FE := by
  cases hown : i.ownPc with
  | false =>
    obtain ⟨u, hu, hupc⟩ | ⟨cause, hf⟩ := exec_sequential_or_fatal s hown
    · obtain rfl := Host.Outcome.next.inj (hu.symm.trans h)
      rw [State.advance_pc, hupc, add_two_toNat (by omega)]; omega
    · obtain rfl := Host.Outcome.next.inj (hf.symm.trans h)
      rw [State.raiseFatal_pc]; omega
  | true => exact exec_pc_le_of_ownPc hown hpc hstack h

/-- An instruction run from where a fetch succeeds keeps the invariant. -/
theorem State.Inv.exec {i : Instr} {s t : State} (hi : s.Inv) (hrst : s.rst = false) (hrun : s.running)
    (hpc : s.pc.toNat ≤ 0xFFE) (h : exec i s = .next t) : t.Inv where
  mem := exec_keeps_mem_wf hi.mem h
  fb := exec_keeps_fb_wf hi.fb h
  pc := exec_pc_le hpc hi.stack h
  stack k := by
    obtain hkeep | ⟨-, htop, hother⟩ := exec_stackAt_cases h
    · rw [hkeep]; exact hi.stack k
    · by_cases hk : k = s.sp
      · rw [hk, htop, add_two_toNat (by omega)]; omega
      · rw [hother k hk]; exact hi.stack k
  stackTop := by
    obtain hkeep | ⟨hroom, -, hother⟩ := exec_stackAt_cases h
    · rw [hkeep]; exact hi.stackTop
    · rw [hother 15 hroom.symm]; exact hi.stackTop
  latch := by
    obtain hkeep | ⟨cause, rfl⟩ := exec_fault_cases h
    · obtain ⟨hclear, -⟩ := hi.latch
      exact State.latchInv_of_none (hkeep.trans (hclear hrun))
    · exact s.latchInv_raiseFatal cause _
  held hup := by
    obtain ⟨-, -, -, -, -, -, -, hkeep, -⟩ := eachStateHasItsOwnWriters i s t h
    rw [hkeep, hrst] at hup
    cases hup

/-! ### What the engine does to the invariant (R70) -/

/-- A fatal entry keeps the invariant (R166). -/
theorem State.Inv.raiseFatal {s : State} (hi : s.Inv) (hrst : s.rst = false) (cause : FatalCause) (op : Word) :
    (s.raiseFatal cause op).Inv :=
  { hi with
    latch := s.latchInv_raiseFatal cause op
    held := fun hup => absurd (hrst.symm.trans hup) Bool.false_ne_true }

theorem State.Inv.engineStep {s t : State} (hi : s.Inv) (hrst : s.rst = false) (h : engineStep s = .next t) :
    t.Inv := by
  obtain ⟨-, he⟩ | ⟨-, -, he⟩ | ⟨op, hrun, hfetch, he⟩ := engineStep_cases s
  · exact Host.Outcome.next.inj (he.symm.trans h) ▸ hi
  · exact Host.Outcome.next.inj (he.symm.trans h) ▸ hi.raiseFatal hrst _ _
  · have hpc : s.pc.toNat ≤ 0xFFE := by
      by_contra hgt
      rw [s.fetch_eq_none_iff.mpr (by omega)] at hfetch
      cases hfetch
    exact hi.exec hrst hrun hpc (he.symm.trans h)

theorem State.Inv.requestedStep {s t : State} (hi : s.Inv) (h : requestedStep s = .next t) : t.Inv := by
  obtain ⟨-, he⟩ | ⟨hrst, he⟩ := requestedStep_cases s
  · exact Host.Outcome.next.inj (he.symm.trans h) ▸ hi
  · exact hi.engineStep hrst (he.symm.trans h)

/-- Settles O59: what comes before the step, the engine and the arrival of the inputs each keep the invariant. -/
theorem everyStepKeepsTheInvariant : Obligations.EveryStepKeepsTheInvariant := by
  intro s t hi h
  obtain ⟨u, hu, rfl⟩ := stepRequest_next h
  exact (hi.beginStep.requestedStep hu).nextInput

end Sys2Proof.Machine

/-! PROOFS. Register file and ALU (41_alu.md): loads, copies, logic and RND (O26, O27, O31), and the five
flag-writing instructions (O28 to O30). -/

namespace Sys2Proof.Machine

/-! ### What the flags and results are, as numbers (R90) -/

/-- A flag as a number (R11). -/
@[simp] theorem flagByte_toNat (b : Bool) : (flagByte b).toNat = b.toNat := by
  cases b
  · rfl
  · rfl

theorem flagByte_carryOut (a b : Byte) :
    flagByte (carryOut a b) = if a.toNat + b.toNat > 255 then 1 else 0 := by
  simp only [flagByte, carryOut, decide_eq_true_eq]

theorem flagByte_noBorrow (a b : Byte) : flagByte (noBorrow a b) = if a.toNat ≥ b.toNat then 1 else 0 := by
  simp only [flagByte, noBorrow, decide_eq_true_eq]

/-- The bit SHR shifts out is the remainder of halving (R100). -/
theorem lowBit_toNat (v : Byte) : (lowBit v).toNat = v.toNat % 2 := by
  rw [lowBit, BitVec.getLsbD, Nat.toNat_testBit, Nat.pow_zero, Nat.div_one]

/-- The bit SHL shifts out is what doubling carries past 255 (R102). -/
theorem highBit_toNat (v : Byte) : (highBit v).toNat = v.toNat / 128 := by
  rw [highBit, BitVec.getLsbD, Nat.toNat_testBit]
  omega

/-- The difference kept is the exact one modulo 256 (R90). -/
theorem toNat_sub_eq_emod (a b : Byte) : ((a - b).toNat : Int) = ((a.toNat : Int) - b.toNat) % 256 := by
  rw [BitVec.toNat_sub]
  omega

/-- The value shifted is the register that SHIFT_SRC names (R4). -/
theorem shiftSource_eq {s : State} {x y : Reg} {v : Byte}
    (h : (s.cfg.shiftSrc = .vx ∧ v = s.reg x) ∨ (s.cfg.shiftSrc = .vy ∧ v = s.reg y)) :
    shiftSource s x y = v := by
  obtain ⟨hsrc, rfl⟩ | ⟨hsrc, rfl⟩ := h
  · rw [shiftSource, hsrc]
  · rw [shiftSource, hsrc]

/-! ### From the value written to what a statement says of it -/

/-- `sequential_setReg` for any property `Q` that the value written gives the next state. -/
theorem sequential_setReg_of {s : State} {x : Reg} {v : Byte} {Q : State → Prop} (hQ : ∀ t, t.reg x = v → Q t) :
    ∃ t, sequential (s.setReg x v) = .next t ∧ s.onlyRegisters t ∧ s.registersBut [x] t ∧ Q t := by
  obtain ⟨t, ht, honly, hbut, hv⟩ := sequential_setReg s x v
  exact ⟨t, ht, honly, hbut, hQ t hv⟩

/-- `sequential_setRegThenFlag` for any properties `F` and `Q` that the flag and the result give the next
state; the result stands only where the flag did not overwrite it (R91). -/
theorem sequential_setRegThenFlag_of {s : State} {x : Reg} {v : Byte} {b : Bool} {F Q : State → Prop}
    (hF : ∀ t, t.reg VF = flagByte b → F t) (hQ : ∀ t, t.reg x = v → Q t) :
    ∃ t, sequential (s.setRegThenFlag x v b) = .next t ∧ s.onlyRegisters t ∧ s.registersBut [x, VF] t ∧
      F t ∧ (x ≠ VF → Q t) := by
  obtain ⟨t, ht, honly, hbut, hf, hv⟩ := sequential_setRegThenFlag s x v b
  exact ⟨t, ht, honly, hbut, hF t hf, fun hx => hQ t (hv hx)⟩

/-! ### The instructions with a flag (R98 to R102) -/

/-- Settles O28: the flag is the carry, the result the sum of bytes. -/
theorem addSetsTheCarry : Obligations.AddSetsTheCarry := fun x y s =>
  ⟨decodeOfEncodeIsTheInstruction (.addReg x y) rfl,
    sequential_setRegThenFlag_of (fun _ hf => hf.trans (flagByte_carryOut _ _))
      (fun _ hv => by rw [hv, BitVec.toNat_add])⟩

/-- A difference and its borrow flag, for SUB and SUBN alike: `a` is the minuend (R99, R101). -/
theorem sequential_difference (s : State) (x : Reg) (a b : Byte) :
    ∃ t, sequential (s.setRegThenFlag x (a - b) (noBorrow a b)) = .next t ∧ s.onlyRegisters t ∧
      s.registersBut [x, VF] t ∧ t.reg VF = (if a.toNat ≥ b.toNat then 1 else 0) ∧
      (x ≠ VF → ((t.reg x).toNat : Int) = ((a.toNat : Int) - b.toNat) % 256) :=
  sequential_setRegThenFlag_of (fun _ hf => hf.trans (flagByte_noBorrow a b))
    (fun _ hv => by rw [hv, toNat_sub_eq_emod])

/-- Settles O29: SUB takes `V[y]` from `V[x]`, SUBN `V[x]` from `V[y]`. -/
theorem subtractSetsNoBorrow : Obligations.SubtractSetsNoBorrow := fun x y s =>
  ⟨decodeOfEncodeIsTheInstruction (.subReg x y) rfl, decodeOfEncodeIsTheInstruction (.subnReg x y) rfl,
    sequential_difference s x (s.reg x) (s.reg y), sequential_difference s x (s.reg y) (s.reg x)⟩

/-- Settles O30: with the source the one SHIFT_SRC names, half or twice of it and the bit shifted out. -/
theorem shiftsMoveOnePlace : Obligations.ShiftsMoveOnePlace := fun x y s v hv => by
  obtain rfl := shiftSource_eq hv
  refine ⟨decodeOfEncodeIsTheInstruction (.shr x y) rfl, decodeOfEncodeIsTheInstruction (.shl x y) rfl, ?_, ?_⟩
  · exact sequential_setRegThenFlag_of (fun _ hf => by rw [hf, flagByte_toNat, lowBit_toNat])
      (fun _ hr => by rw [hr, BitVec.toNat_ushiftRight, Nat.shiftRight_one])
  · exact sequential_setRegThenFlag_of (fun _ hf => by rw [hf, flagByte_toNat, highBit_toNat])
      (fun _ hr => by rw [hr, BitVec.toNat_shiftLeft, Nat.shiftLeft_eq, Nat.mul_comm])

/-! ### The instructions without a flag (R92 to R97, R104) -/

/-- Settles O26: `V[x]` is the immediate, or the sum of bytes. -/
theorem immediateLoadAndAdd : Obligations.ImmediateLoadAndAdd := fun x kk s =>
  ⟨decodeOfEncodeIsTheInstruction (.ldImm x kk) rfl, decodeOfEncodeIsTheInstruction (.addImm x kk) rfl,
    sequential_setReg s x kk, sequential_setReg_of fun _ hv => by rw [hv, BitVec.toNat_add]⟩

/-- Settles O27: each logic operation works on its bits one by one. -/
theorem copyAndLogic : Obligations.CopyAndLogic := fun x y s =>
  ⟨decodeOfEncodeIsTheInstruction (.ldReg x y) rfl, decodeOfEncodeIsTheInstruction (.orReg x y) rfl,
    decodeOfEncodeIsTheInstruction (.andReg x y) rfl, decodeOfEncodeIsTheInstruction (.xorReg x y) rfl,
    sequential_setReg s x (s.reg y),
    sequential_setReg_of fun _ hv _ _ => by rw [hv, BitVec.getLsbD_or],
    sequential_setReg_of fun _ hv _ _ => by rw [hv, BitVec.getLsbD_and],
    sequential_setReg_of fun _ hv _ _ => by rw [hv, BitVec.getLsbD_xor]⟩

/-- Settles O31: the draw of the step under the mask, bit by bit. -/
theorem randomByteIsMasked : Obligations.RandomByteIsMasked := fun x kk s =>
  ⟨decodeOfEncodeIsTheInstruction (.rnd x kk) rfl,
    sequential_setReg_of fun _ hv _ _ => by rw [hv, BitVec.getLsbD_and]⟩

end Sys2Proof.Machine

/-! PROOFS. Index register and memory (42_index_memory.md): the values of `I` (O33, O34), the decimal digits
(O35), the register dump and the register load (O36, O37), and the one after the other (O39). -/

namespace Sys2Proof.Machine

/-! ### The index register (R110 to R112) -/

/-- An instruction that writes `I` and goes on: its whole frame, and the number that `I` becomes. -/
theorem sequential_setI {s : State} {v : Word} {n : Nat} (hv : v.toNat = n) :
    ∃ t, sequential (s.setI v) = .next t ∧ t = { s with I := t.I, pc := s.pc + 2 } ∧ t.I.toNat = n :=
  ⟨(s.setI v).advance, rfl, rfl, hv⟩

/-- The glyph address of a byte fits in 16 bits, so it is the exact number (R112). -/
theorem glyphAddress_toNat (v : Byte) : (glyphAddress v).toNat = v.toNat * 5 + 0x050 := by
  rw [glyphAddress, fontBase, BitVec.toNat_ofNat]
  omega

/-- Settles O33: the address zero-extended, and the 16-bit sum. -/
theorem indexLoadAndAdd : Obligations.IndexLoadAndAdd := fun nnn x s =>
  ⟨decodeOfEncodeIsTheInstruction (.ldI nnn) rfl, decodeOfEncodeIsTheInstruction (.addI x) rfl,
    sequential_setI (zext12_toNat nnn), sequential_setI (by rw [BitVec.toNat_add, zext8_toNat])⟩

/-- Settles O34: the glyph address of the whole byte. -/
theorem fontAddress : Obligations.FontAddress := fun x s =>
  ⟨decodeOfEncodeIsTheInstruction (.ldF x) rfl, sequential_setI (glyphAddress_toNat (s.reg x))⟩

/-! ### Consecutive bytes from `I` on (R34, R38) -/

/-- A range is inside memory when its last byte is (R38). -/
theorem dataRangeOK_of_last {base last : Nat} (h : base + last ≤ 0xFFF) : dataRangeOK base (last + 1) = true :=
  (dataRangeOK_iff _ _).mpr (.inr (Nat.succ_le_succ h))

section
variable {s : State} {bs : List Byte} (hwf : s.mem.wf s.cfg = true) (hb : s.I.toNat + bs.length ≤ memSize)
include hwf hb

/-- The byte at `I + i` is byte `i` of those stored. -/
theorem State.readByte_writeAtI_getElem {i : Nat} (hi : i < bs.length) :
    (s.writeAtI bs).readByte (s.I.toNat + i) = bs[i] := by
  have hin : s.I.toNat ≤ s.I.toNat + i ∧ s.I.toNat + i - s.I.toNat < bs.length := by omega
  rw [State.readByte_writeAtI hwf hb, dif_pos hin]
  simp only [Nat.add_sub_cancel_left]

theorem State.bytesBut_writeAtI : s.bytesBut s.I.toNat bs.length (s.writeAtI bs) :=
  fun _ ha => Memory.read_writeBytes_outside hb hwf ha

end

/-! ### LD B (R113) -/

theorem exec_ldB_of_inRange {x : Reg} {s : State} (hr : s.I.toNat + 2 ≤ 0xFFF) :
    exec (.ldB x) s = .next (s.writeAtI (decimalDigits (s.reg x))).advance := by
  rw [exec_ldB, withDataRange_ok (dataRangeOK_of_last hr), sequential]

/-- Settles O35: a store of the three digits from `I` on; the hundreds digit of a byte is at most 2. -/
theorem decimalDigitsAreStored : Obligations.DecimalDigitsAreStored := fun x s hwf => by
  refine ⟨decodeOfEncodeIsTheInstruction (.ldB x) rfl, fun hr => ?_⟩
  have hb : s.I.toNat + (decimalDigits (s.reg x)).length ≤ memSize := Nat.succ_le_succ hr
  have hdigit {i d : Nat} (hi : i < 3) (hd : (decimalDigits (s.reg x))[i]'hi = BitVec.ofNat 8 d) (hlt : d < 10) :
      ((s.writeAtI (decimalDigits (s.reg x))).readByte (s.I.toNat + i)).toNat = d := by
    rw [State.readByte_writeAtI_getElem hwf hb hi, hd, BitVec.toNat_ofNat, Nat.mod_eq_of_lt (by omega)]
  refine ⟨_, exec_ldB_of_inRange hr, rfl, ?_, ?_, ?_, State.bytesBut_writeAtI hwf hb⟩
  · exact hdigit (i := 0) (by decide) rfl (by omega)
  · exact hdigit (i := 1) (by decide) rfl (by omega)
  · exact hdigit (i := 2) (by decide) rfl (by omega)

/-! ### The register dump and the register load (R114, R115) -/

/-- Settles O36: a store of `V[0..x]` from `I` on. -/
theorem registersAreDumped : Obligations.RegistersAreDumped := fun x s hwf => by
  refine ⟨decodeOfEncodeIsTheInstruction (.dumpRegs x) rfl, fun hr => ?_⟩
  have hb : s.I.toNat + (s.regsTo x).length ≤ memSize := by
    rw [State.regsTo_length]; exact Nat.succ_le_succ hr
  have hbut := State.bytesBut_writeAtI hwf hb
  rw [State.regsTo_length] at hbut
  exact ⟨_, exec_dumpRegs_of_inRange hr, rfl, fun i hi => State.readByte_writeAtI_regsTo hwf hr hi, hbut⟩

/-- A register load whose range is inside memory loads `V[0..x]` from `I` on and goes on (R115). -/
theorem exec_loadRegs_of_inRange {x : Reg} {s : State} (hr : s.I.toNat + x.val ≤ 0xFFF) :
    exec (.loadRegs x) s = .next (s.setRegsTo x (s.readAtI (x.val + 1))).advance := by
  rw [exec_loadRegs, withDataRange_ok (dataRangeOK_of_last hr), sequential]

/-- After the bytes from `I` on were loaded into the registers up to `x`, `V[i]` is the byte at `I + i`. -/
theorem State.reg_setRegsTo_readAtI (s : State) {x i : Reg} (hi : i ≤ x) :
    (s.setRegsTo x (s.readAtI (x.val + 1))).reg i = s.readByte (s.I.toNat + i.val) := by
  rw [State.reg_setRegsTo, if_pos hi, List.getD_eq_getElem?_getD,
    State.readAtI_getElem? s (Nat.lt_succ_of_le hi), Option.getD_some]

/-- Settles O37: the registers up to `x` from memory, the others as they were. -/
theorem registersAreLoaded : Obligations.RegistersAreLoaded := fun x s => by
  refine ⟨decodeOfEncodeIsTheInstruction (.loadRegs x) rfl, fun hr => ?_⟩
  refine ⟨_, exec_loadRegs_of_inRange hr, rfl, fun i hi => ?_, fun i hi => ?_⟩
  · rw [State.advance_reg, State.reg_setRegsTo_readAtI s hi]
  · rw [State.advance_reg, State.reg_setRegsTo, if_neg (Fin.not_le.mpr hi)]

/-- Two states with the same registers have the same register file: the converse of `State.reg_congr`. -/
theorem State.V_eq_of_reg_eq {s t : State} (h : ∀ r, t.reg r = s.reg r) : t.V = s.V :=
  Vector.ext fun i hi => h ⟨i, hi⟩

/-- Settles O39: the dump keeps `I` and every register, so the load reads each register back from where the dump
stored it (R114, R115). -/
theorem dumpThenLoadRestoresTheRegisters : Obligations.DumpThenLoadRestoresTheRegisters := by
  intro x s hwf hr
  obtain ⟨u, hdump, hu, hstored, -⟩ := (registersAreDumped x s hwf).2 hr
  have hI : u.I = s.I := by rw [hu]
  have hV : u.V = s.V := by rw [hu]
  obtain ⟨t, hload, ht, hlow, hhigh⟩ := (registersAreLoaded x u).2 (by rwa [hI])
  have hreg (r : Reg) : t.reg r = s.reg r := by
    obtain hle | hlt := le_or_gt r x
    · rw [hlow r hle, hI, hstored r hle]
    · rw [hhigh r hlt, State.reg_congr hV]
  refine ⟨t, by rw [execAll_cons_of_next _ hdump, execAll_cons_of_next _ hload, execAll], ?_⟩
  have hpc : s.pc + 2 + 2 = s.pc + 4 := BitVec.add_assoc s.pc 2 2
  rw [ht, State.V_eq_of_reg_eq hreg, hu, ← hpc]

end Sys2Proof.Machine

/-! PROOFS. Display (43_display.md): CLS (O42), what DRW leaves in every field and in every pixel (O43, O44), drawing
twice (O45), and who invokes the Display Sink (O46). -/

namespace Sys2Proof.Machine

/-! ### CLS (R120) -/

/-- Settles O42: the grid left is the blank one of the configured size. -/
theorem clearScreenClearsEveryPixel : Obligations.ClearScreenClearsEveryPixel :=
  ⟨decodeOfEncodeIsTheInstruction .cls rfl, fun _ =>
    ⟨_, rfl, rfl, Frame.wf_blank _ _, fun r c _ _ => Frame.get_blank _ _ r c⟩⟩

/-! ### The state that DRW leaves (R121) -/

/-- What DRW leaves when its sprite is inside memory; that `exec` answers it is `exec_drw_of_inRange`. -/
def State.afterDraw (s : State) (x y : Reg) (n : Nat) : State :=
  ((s.setFb (drawn x y n s).1).setReg VF (flagByte (drawn x y n s).2)).pushDisplay.advance

theorem exec_drw_of_inRange {x y : Reg} {n : Fin 16} {s : State} (hr : n.val = 0 ∨ s.I.toNat + n.val - 1 ≤ 0xFFF) :
    exec (.drw x y n) s = .next (s.afterDraw x y n.val) := by
  have hok : dataRangeOK s.I.toNat n.val = true := by
    rw [dataRangeOK, Bool.or_eq_true, beq_iff_eq, decide_eq_true_eq]; exact hr
  rw [exec_drw, withDataRange_ok hok, sequential, State.afterDraw]

@[simp] theorem State.afterDraw_fb (s : State) (x y : Reg) (n : Nat) :
    (s.afterDraw x y n).fb = (drawn x y n s).1 := rfl

@[simp] theorem State.afterDraw_reg_VF (s : State) (x y : Reg) (n : Nat) :
    (s.afterDraw x y n).reg VF = flagByte (drawn x y n s).2 :=
  reg_VF_of_draw s _ _

theorem State.afterDraw_fb_wf {s : State} (hfb : s.fb.wf s.cfg.fbWidth s.cfg.fbHeight) (x y : Reg) (n : Nat) :
    (s.afterDraw x y n).fb.wf s.cfg.fbWidth s.cfg.fbHeight :=
  Frame.wf_drawSprite hfb _ _ _

theorem State.afterDraw_reg_ne (s : State) (x y : Reg) (n : Nat) {r : Reg} (h : r ≠ VF) :
    (s.afterDraw x y n).reg r = s.reg r := by
  rw [State.afterDraw, State.advance_reg, State.pushDisplay_reg, State.reg_setReg_ne _ _ h, State.setFb_reg]

/-- A sprite of no rows changes no pixel and collides with none (R121). -/
theorem drawn_zero (x y : Reg) (s : State) : drawn x y 0 s = (s.fb, false) := rfl

/-- Settles O43: `State.afterDraw` writes the framebuffer, VF, the pulse and `pc` only. -/
theorem drawCompletesWithItsFrame : Obligations.DrawCompletesWithItsFrame := fun x y n s => by
  refine ⟨decodeOfEncodeIsTheInstruction (.drw x y n) rfl, fun hr => ?_⟩
  refine ⟨_, exec_drw_of_inRange hr, rfl, fun r hne => ?_, ?_, fun h0 => ?_⟩
  · exact s.afterDraw_reg_ne x y n.val (List.ne_of_not_mem_cons hne)
  · rw [State.afterDraw_reg_VF]; exact flagByte_eq_zero_or_one _
  · rw [State.afterDraw_fb, State.afterDraw_reg_VF, h0, drawn_zero]; exact ⟨rfl, rfl⟩

/-! ### The pixels under a sprite (R122) -/

/-- The pixels that DRW toggles, as (row, column), in the order it does (R121). -/
def State.drawPixels (s : State) (x y : Reg) (n : Nat) : List (Nat × Nat) :=
  spritePixels s.cfg.fbWidth s.cfg.fbHeight (s.reg x).toNat (s.reg y).toNat 0 (s.readAtI n)

theorem drawn_eq_toggleAll (x y : Reg) (n : Nat) (s : State) :
    drawn x y n s = s.fb.toggleAll false (s.drawPixels x y n) := rfl

theorem State.mem_drawPixels {s : State} {x y : Reg} {n r c : Nat} :
    (r, c) ∈ s.drawPixels x y n ↔ s.spriteCovers x y n r c :=
  mem_spritePixels_iff_covers

theorem State.drawPixels_inside {s : State} (hcfg : s.cfg.wf) (x y : Reg) (n : Nat) :
    ∀ p ∈ s.drawPixels x y n, p.1 < s.cfg.fbHeight ∧ p.2 < s.cfg.fbWidth :=
  spritePixels_inside hcfg.1 hcfg.2 _ _ _ _

theorem State.drawPixels_nodup {s : State} {n : Nat} (hw : 8 ≤ s.cfg.fbWidth) (hn : n ≤ s.cfg.fbHeight) (x y : Reg) :
    (s.drawPixels x y n).Nodup :=
  spritePixels_nodup hw (by rw [State.readAtI_length]; omega)

/-- Each pixel after DRW, on a grid of any size: flipped once for every set bit that lands on it (R121). -/
theorem get_drawn {s : State} (hcfg : s.cfg.wf) (hfb : s.fb.wf s.cfg.fbWidth s.cfg.fbHeight) (x y : Reg)
    (n r c : Nat) : (drawn x y n s).1.get r c = (s.fb.get r c ^^ toggledOdd r c (s.drawPixels x y n)) :=
  Frame.get_toggleAll r c _ false hfb (State.drawPixels_inside hcfg x y n)

section
variable {s : State} {n : Nat} (hw : 8 ≤ s.cfg.fbWidth) (hh : 15 ≤ s.cfg.fbHeight) (hn : n ≤ 15)
  (hfb : s.fb.wf s.cfg.fbWidth s.cfg.fbHeight)
include hw hh hn hfb

/-- Where no two sprite bits share a pixel, DRW keeps a pixel exactly when the sprite does not cover it (R122). -/
theorem get_drawn_eq_iff (x y : Reg) (r c : Nat) :
    (drawn x y n s).1.get r c = s.fb.get r c ↔ ¬ s.spriteCovers x y n r c := by
  have hodd := toggledOdd_iff_mem (r := r) (c := c) (s.drawPixels_nodup hw (hn.trans hh) x y)
  rw [get_drawn ⟨by omega, by omega⟩ hfb, ← State.mem_drawPixels, ← hodd]
  cases s.fb.get r c <;> simp

theorem get_drawn_of_covers {x y : Reg} {r c : Nat} (hcov : s.spriteCovers x y n r c) :
    (drawn x y n s).1.get r c = !s.fb.get r c :=
  Bool.eq_not_of_ne fun e => (get_drawn_eq_iff hw hh hn hfb x y r c).mp e hcov

/-- There the flag says whether the sprite covers a pixel that was set (R123). -/
theorem drawn_hit_iff (x y : Reg) :
    (drawn x y n s).2 = true ↔ ∃ r c, s.spriteCovers x y n r c ∧ s.fb.get r c = true := by
  have hhit := Frame.hit_toggleAll (s.drawPixels x y n) false hfb
    (State.drawPixels_inside ⟨by omega, by omega⟩ x y n) (s.drawPixels_nodup hw (hn.trans hh) x y)
  rw [drawn_eq_toggleAll, hhit, Bool.false_or, List.any_eq_true, Prod.exists]
  simp only [State.mem_drawPixels]

end

theorem flagByte_eq_one_iff (b : Bool) : flagByte b = 1 ↔ b = true := by
  cases b <;> decide

/-- Settles O44: no two sprite bits share a pixel, so a pixel is flipped once or not at all. -/
theorem drawFlipsThePixelsUnderTheSprite : Obligations.DrawFlipsThePixelsUnderTheSprite := by
  intro x y n s t hw hh hfb hr h
  obtain rfl := Host.Outcome.next.inj ((exec_drw_of_inRange hr).symm.trans h)
  have hn : n.val ≤ 15 := Nat.le_of_lt_succ n.isLt
  refine ⟨State.afterDraw_fb_wf hfb x y n.val, fun r c _ _ => get_drawn_eq_iff hw hh hn hfb x y r c, ?_⟩
  rw [State.afterDraw_reg_VF, flagByte_eq_one_iff]
  exact drawn_hit_iff hw hh hn hfb x y

/-! ### Drawing twice (R124) -/

section
variable {s : State} {x y : Reg} (hx : x ≠ VF) (hy : y ≠ VF) (n : Nat)
include hx hy

/-- With neither coordinate in VF, a second equal DRW toggles the same pixels. -/
theorem State.afterDraw_drawPixels : (s.afterDraw x y n).drawPixels x y n = s.drawPixels x y n := by
  unfold State.drawPixels
  rw [State.afterDraw_reg_ne s x y n hx, State.afterDraw_reg_ne s x y n hy]
  rfl

theorem State.afterDraw_spriteCovers (r c : Nat) :
    (s.afterDraw x y n).spriteCovers x y n r c ↔ s.spriteCovers x y n r c := by
  rw [← State.mem_drawPixels, ← State.mem_drawPixels, State.afterDraw_drawPixels hx hy]

/-- Every pixel is flipped an even number of times by the two. -/
theorem State.afterDraw_afterDraw_fb (hcfg : s.cfg.wf) (hfb : s.fb.wf s.cfg.fbWidth s.cfg.fbHeight) :
    ((s.afterDraw x y n).afterDraw x y n).fb = s.fb := by
  have hfb' := State.afterDraw_fb_wf hfb x y n
  refine Frame.ext_get (State.afterDraw_fb_wf (s := s.afterDraw x y n) hfb' x y n) hfb fun r c _ _ => ?_
  rw [State.afterDraw_fb, get_drawn (s := s.afterDraw x y n) hcfg hfb', State.afterDraw_fb, get_drawn hcfg hfb,
    State.afterDraw_drawPixels hx hy, Bool.xor_assoc, Bool.xor_self, Bool.xor_false]

end

/-- Settles O45: the second DRW toggles the same pixels, in a grid where each pixel they cover has been flipped. -/
theorem drawTwiceRestoresTheFramebuffer : Obligations.DrawTwiceRestoresTheFramebuffer := by
  intro x y n s hcfg hfb hx hy hr
  have hfirst : exec (.drw x y n) s = .next (s.afterDraw x y n.val) := exec_drw_of_inRange hr
  have hsecond : exec (.drw x y n) (s.afterDraw x y n.val) = .next ((s.afterDraw x y n.val).afterDraw x y n.val) :=
    exec_drw_of_inRange hr
  refine ⟨_, by rw [execAll_cons_of_next _ hfirst, execAll_cons_of_next _ hsecond, execAll],
    State.afterDraw_afterDraw_fb hx hy n.val hcfg hfb, fun hw hh => ?_⟩
  have hn : n.val ≤ 15 := Nat.le_of_lt_succ n.isLt
  have hhit := drawn_hit_iff (s := s.afterDraw x y n.val) hw hh hn (State.afterDraw_fb_wf hfb x y n.val) x y
  rw [State.afterDraw_reg_VF, flagByte_eq_one_iff, hhit]
  refine exists_congr fun r => exists_congr fun c => ?_
  rw [State.afterDraw_spriteCovers hx hy]
  refine and_congr_right fun hcov => ?_
  rw [State.afterDraw_fb, get_drawn_of_covers hw hh hn hfb hcov, Bool.not_eq_true']

/-! ### The Display Sink (R125, R144) -/

/-- A CLS or DRW that completes invokes the Display Sink (R125). -/
theorem fbPush_of_display {i : Instr} {s t : State} (hi : i = .cls ∨ ∃ x y n, i = .drw x y n)
    (h : exec i s = .next t) (hv : t.fault.valid = false) : t.fbPush = true := by
  obtain rfl | ⟨x, y, n, rfl⟩ := hi
  · obtain rfl := Host.Outcome.next.inj h
    rfl
  · obtain ⟨-, hacc⟩ | rfl := withDataRange_next (exec_drw x y n s ▸ h)
    · obtain rfl := Host.Outcome.next.inj hacc
      rfl
    · cases hv

/-- Settles O46: CLS and DRW are the only writers of the pulse (O41), and a fatal condition leaves it alone. -/
theorem displaySinkIsInvokedByClearAndDraw : Obligations.DisplaySinkIsInvokedByClearAndDraw := by
  intro i s t hdown hrun h
  refine ⟨fun hup => ⟨?_, ?_⟩, fun ⟨hi, hv⟩ => fbPush_of_display hi h hv⟩
  · obtain ⟨-, hwriter, -⟩ := eachStateHasItsOwnWriters i s t h
    exact hwriter (.inr fun e => by rw [e, hdown] at hup; cases hup)
  · obtain hkeep | ⟨cause, rfl⟩ := exec_fault_cases h
    · rw [hkeep]; exact hrun
    · rw [State.raiseFatal_fbPush, hdown] at hup; cases hup

end Sys2Proof.Machine

/-! PROOFS. Keypad and timers (44_keypad_timers.md): the key skips (O47), the wait for a key (O48) and the timer
copies (O49). -/

namespace Sys2Proof.Machine

/-! ### The key skips (R130, R131) -/

/-- Settles O47: both skips test whether the key of the low nibble of `V[x]` is held. -/
theorem keySkips : Obligations.KeySkips := by
  rintro x s _ rfl
  refine ⟨decodeOfEncodeIsTheInstruction (.skp x) rfl, decodeOfEncodeIsTheInstruction (.sknp x) rfl,
    fun hheld => ⟨?_, ?_⟩, fun hfree => ⟨?_, ?_⟩⟩
  · exact skipIf_of_true s hheld
  · exact skipIf_of_false s (congrArg not hheld)
  · exact skipIf_of_false s hfree
  · exact skipIf_of_true s (congrArg not hfree)

/-! ### The wait for a key (R132, R146) -/

/-- No key is found exactly when no key line is up. -/
theorem firstHeldKey_eq_none_iff (s : State) : firstHeldKey s = none ↔ s.now.keys = 0 := by
  simp only [firstHeldKey, List.find?_eq_none, List.mem_range, keyHeld, Bool.not_eq_true]
  constructor
  · exact fun hfree => BitVec.eq_of_getLsbD_eq fun k hk => (hfree k hk).trans BitVec.getLsbD_zero.symm
  · intro h k _
    rw [h]
    exact BitVec.getLsbD_zero

/-- The key found is one of the sixteen, it is held, and no key below it is. -/
theorem firstHeldKey_eq_some_iff (s : State) (k : Nat) :
    firstHeldKey s = some k ↔
      k < 16 ∧ s.now.keys.getLsbD k = true ∧ ∀ j, j < k → s.now.keys.getLsbD j = false := by
  simp only [firstHeldKey, List.find?_range_eq_some, List.mem_range, keyHeld, Bool.not_eq_true']
  exact and_left_comm

/-- With no key found the wait holds. -/
theorem exec_ldVxK_of_none {s : State} (x : Reg) (h : firstHeldKey s = none) : exec (.ldVxK x) s = .next s := by
  change execLdVxK x s = _
  rw [execLdVxK, h]

/-- With a key found its number goes to `V[x]`. -/
theorem exec_ldVxK_of_some {s : State} {k : Nat} (x : Reg) (h : firstHeldKey s = some k) :
    exec (.ldVxK x) s = sequential (s.setReg x (BitVec.ofNat 8 k)) := by
  change execLdVxK x s = _
  rw [execLdVxK, h]

/-- Settles O48: no key is found when none is held, and otherwise the key found is the lowest one held. -/
theorem waitForKey : Obligations.WaitForKey := by
  intro x s
  refine ⟨decodeOfEncodeIsTheInstruction (.ldVxK x) rfl, fun hnone => ?_, fun hsome => ?_⟩
  · exact exec_ldVxK_of_none x ((firstHeldKey_eq_none_iff s).mpr hnone)
  · obtain ⟨k, hk⟩ := Option.ne_none_iff_exists'.mp (mt (firstHeldKey_eq_none_iff s).mp hsome)
    obtain ⟨hlt, hheld, hlowest⟩ := (firstHeldKey_eq_some_iff s k).mp hk
    obtain ⟨t, ht, honly, hbut, hv⟩ := sequential_setReg s x (BitVec.ofNat 8 k)
    have hnum : (t.reg x).toNat = k := by rw [hv, BitVec.toNat_ofNat, Nat.mod_eq_of_lt (by omega)]
    exact ⟨t, k, (exec_ldVxK_of_some x hk).trans ht, honly, hbut, hlt, hheld, hlowest, hnum⟩

/-! ### The timer copies (R133 to R135) -/

/-- Settles O49: one register write, and the two timer writes, each with sequential flow. -/
theorem timerCopies : Obligations.TimerCopies := fun x s =>
  ⟨decodeOfEncodeIsTheInstruction (.ldVxDT x) rfl, decodeOfEncodeIsTheInstruction (.ldDTVx x) rfl,
    decodeOfEncodeIsTheInstruction (.ldSTVx x) rfl, sequential_setReg s x s.DT, rfl, rfl⟩

end Sys2Proof.Machine

/-! PROOFS. Interfaces (50_interfaces.md): the instructions that do not look at the key lines (O51) or at the
random draw (O52). -/

namespace Sys2Proof.Machine

/-- `s` with other inputs for the coming step: what `f` makes of the ones it has. -/
def State.mapNow (f : StepInput → StepInput) (s : State) : State := { s with now := f s.now }

/-- The key found first depends on the state through the key lines only (R146). -/
theorem firstHeldKey_congr {s t : State} (h : t.now.keys = s.now.keys) : firstHeldKey t = firstHeldKey s :=
  congrArg (fun keys : Word => (List.range 16).find? keys.getLsbD) h

section
variable {f : StepInput → StepInput} {s : State}

theorem withDataRange_mapNow (len : Nat) (i : Instr) {access : State → Result}
    (h : access (s.mapNow f) = Result.map (State.mapNow f) (access s)) :
    withDataRange len i (s.mapNow f) access = Result.map (State.mapNow f) (withDataRange len i s access) :=
  withDataRange_map len i rfl (fun _ _ => rfl) h

theorem exec_ret_mapNow : exec .ret (s.mapNow f) = Result.map (State.mapNow f) (exec .ret s) := by
  by_cases hempty : s.sp = 0
  · rw [exec_ret_of_empty hempty, exec_ret_of_empty (s := s.mapNow f) hempty]; rfl
  · rw [exec_ret_of_held hempty, exec_ret_of_held (s := s.mapNow f) hempty]; rfl

theorem exec_call_mapNow (nnn : Addr12) :
    exec (.call nnn) (s.mapNow f) = Result.map (State.mapNow f) (exec (.call nnn) s) := by
  by_cases hfull : s.sp = 15
  · rw [exec_call_of_full nnn hfull, exec_call_of_full nnn (s := s.mapNow f) hfull]; rfl
  · rw [exec_call_of_room nnn hfull, exec_call_of_room nnn (s := s.mapNow f) hfull]; rfl

theorem skipIf_mapNow {c d : Bool} (h : c = d) :
    skipIf c (s.mapNow f) = Result.map (State.mapNow f) (skipIf d s) := by
  rw [h]; rfl

theorem exec_ldVxK_mapNow (x : Reg) (h : (f s.now).keys = s.now.keys) :
    exec (.ldVxK x) (s.mapNow f) = Result.map (State.mapNow f) (exec (.ldVxK x) s) := by
  have hkey : firstHeldKey (s.mapNow f) = firstHeldKey s := firstHeldKey_congr h
  cases hfound : firstHeldKey s with
  | none => rw [exec_ldVxK_of_none x hfound, exec_ldVxK_of_none x (hkey.trans hfound)]; rfl
  | some k => rw [exec_ldVxK_of_some x hfound, exec_ldVxK_of_some x (hkey.trans hfound)]; rfl

theorem exec_rnd_mapNow (x : Reg) (kk : Byte) (h : (f s.now).rnd = s.now.rnd) :
    exec (.rnd x kk) (s.mapNow f) = Result.map (State.mapNow f) (exec (.rnd x kk) s) :=
  congrArg (fun rnd : Byte => Result.map (State.mapNow f) (sequential (s.setReg x (rnd &&& kk)))) h

/-- Every instruction commutes with a change of the inputs of its step that keeps the input it looks at: the key
lines for the three key instructions (R145), the draw for RND (R147). -/
theorem exec_mapNow (i : Instr) (hkeys : i.readsKeys = true → (f s.now).keys = s.now.keys)
    (hrnd : i.readsRnd = true → (f s.now).rnd = s.now.rnd) :
    exec i (s.mapNow f) = Result.map (State.mapNow f) (exec i s) := by
  cases i with
  | skp x => exact skipIf_mapNow (congrArg (·.getLsbD (keyNumber s x)) (hkeys rfl))
  | sknp x => exact skipIf_mapNow (congrArg (!·.getLsbD (keyNumber s x)) (hkeys rfl))
  | ldVxK x => exact exec_ldVxK_mapNow x (hkeys rfl)
  | rnd x kk => exact exec_rnd_mapNow x kk (hrnd rfl)
  | ret => exact exec_ret_mapNow
  | call nnn => exact exec_call_mapNow nnn
  | drw x y n => simp only [exec_drw]; exact withDataRange_mapNow n.val _ rfl
  | ldB x => simp only [exec_ldB]; exact withDataRange_mapNow 3 _ rfl
  | dumpRegs x => simp only [exec_dumpRegs]; exact withDataRange_mapNow (x.val + 1) _ rfl
  | loadRegs x => simp only [exec_loadRegs]; exact withDataRange_mapNow (x.val + 1) _ rfl
  | _ => rfl

end

/-- Settles O51: other key lines are a change of the inputs that keeps the draw, and the instruction looks at no
key line. -/
theorem onlyKeyInstructionsLookAtTheKeys : Obligations.OnlyKeyInstructionsLookAtTheKeys :=
  fun i _ keys hno => exec_mapNow (f := fun now => { now with keys := keys }) i
    (fun hreads => absurd hreads (Bool.eq_false_iff.mp hno)) fun _ => rfl

/-- Settles O52: another draw is a change of the inputs that keeps the key lines, and the instruction consumes no
draw. -/
theorem onlyRandomLooksAtTheDraw : Obligations.OnlyRandomLooksAtTheDraw :=
  fun i _ rnd hno => exec_mapNow (f := fun now => { now with rnd := rnd }) i (fun _ => rfl)
    fun hreads => absurd hreads (Bool.eq_false_iff.mp hno)

end Sys2Proof.Machine

/-! PROOFS. Exceptions (60_exceptions.md): the check of an instruction and the fatal entry (O12, O13, O23, O38), the
fetch outside memory and the stopped engine (O10, O11), ticks (O7, O50), the arrival of the given inputs (O54) and a
ROM that is too large (O56). -/

namespace Sys2Proof.Machine

/-! ### The one check of an instruction (R163 to R165, R168) -/

/-- `i` is one of the four instructions that access memory through `I`, and `len` is the length of its range (R165). -/
def AccessesThroughI (i : Instr) (len : Nat) : Prop :=
  (∃ x y n, i = .drw x y n ∧ len = n.val) ∨ (∃ x, i = .ldB x ∧ len = 3) ∨
  (∃ x, i = .dumpRegs x ∧ len = x.val + 1) ∨ (∃ x, i = .loadRegs x ∧ len = x.val + 1)

/-- The check of instruction `i` fails in state `s`, with this cause. That `exec` raises exactly these is
`exec_of_failedCheck` and `fault_kept_or_failedCheck`. -/
inductive FailedCheck (i : Instr) (s : State) : FatalCause → Prop where
  /-- CALL with all fifteen entries held (R163). -/
  | overflow (nnn : Addr12) (hi : i = .call nnn) (hfull : s.sp = 15) : FailedCheck i s .stackOverflow
  /-- RET with no entry held (R164). -/
  | underflow (hi : i = .ret) (hempty : s.sp = 0) : FailedCheck i s .stackUnderflow
  /-- An access through `I` that is not wholly inside memory (R38, R165). -/
  | data (len : Nat) (hpos : 0 < len) (hout : 0xFFF < s.I.toNat + len - 1) (hacc : AccessesThroughI i len) :
      FailedCheck i s .dataOob

/-- An instruction raises its own cause of R161: neither that of the fetch nor that of the load. -/
theorem FailedCheck.code_bounds {i : Instr} {s : State} {cause : FatalCause} (h : FailedCheck i s cause) :
    2 ≤ cause.code.toNat ∧ cause.code.toNat ≤ 4 := by
  cases h <;> decide

theorem dataRangeOK_eq_false_iff (base len : Nat) :
    dataRangeOK base len = false ↔ 0 < len ∧ 0xFFF < base + len - 1 := by
  rw [← Bool.not_eq_true, dataRangeOK_iff, memSize]
  omega

/-- The four instructions that access memory through `I` are accesses with a range check which leave the latch alone
when they are made. -/
theorem exec_of_accessesThroughI {i : Instr} {len : Nat} (h : AccessesThroughI i len) (s : State) :
    ∃ access, exec i s = withDataRange len i s access ∧ ∃ u, access s = .next u ∧ u.fault = s.fault := by
  obtain ⟨x, y, n, rfl, rfl⟩ | ⟨x, rfl, rfl⟩ | ⟨x, rfl, rfl⟩ | ⟨x, rfl, rfl⟩ := h
  · exact ⟨_, exec_drw x y n s, _, rfl, rfl⟩
  · exact ⟨_, exec_ldB x s, _, rfl, rfl⟩
  · exact ⟨_, exec_dumpRegs x s, _, rfl, rfl⟩
  · exact ⟨_, exec_loadRegs x s, _, rfl, rfl⟩

/-- An instruction whose check fails takes the fatal entry with the cause of that check (R166). -/
theorem exec_of_failedCheck {i : Instr} {s : State} {cause : FatalCause} (h : FailedCheck i s cause) :
    exec i s = .next (s.raiseFatal cause (encode i)) := by
  cases h with
  | overflow nnn hi hfull => subst hi; exact exec_call_of_full nnn hfull
  | underflow hi hempty => subst hi; exact exec_ret_of_empty hempty
  | data len hpos hout hacc =>
    obtain ⟨access, he, -⟩ := exec_of_accessesThroughI hacc s
    rw [he, withDataRange_oob ((dataRangeOK_eq_false_iff _ _).mpr ⟨hpos, hout⟩)]

/-- An access through `I` leaves the latch alone or fails its check. -/
theorem fault_kept_or_failedCheck_of_access {i : Instr} {s t : State} {len : Nat} (hacc : AccessesThroughI i len)
    (h : exec i s = .next t) : t.fault = s.fault ∨ ∃ cause, FailedCheck i s cause := by
  obtain ⟨access, he, u, hu, hkeep⟩ := exec_of_accessesThroughI hacc s
  obtain ⟨-, hmade⟩ | ⟨hoob, -⟩ := withDataRange_cases len i s access
  · obtain rfl := Host.Outcome.next.inj ((he.trans (hmade.trans hu)).symm.trans h)
    exact .inl hkeep
  · obtain ⟨hpos, hout⟩ := (dataRangeOK_eq_false_iff _ _).mp hoob
    exact .inr ⟨_, .data len hpos hout hacc⟩

/-- There is no other check: an instruction leaves the latch alone or its own check fails (R168). -/
theorem fault_kept_or_failedCheck {i : Instr} {s t : State} (h : exec i s = .next t) :
    t.fault = s.fault ∨ ∃ cause, FailedCheck i s cause := by
  cases i with
  | call nnn =>
    by_cases hfull : s.sp = 15
    · exact .inr ⟨_, .overflow nnn rfl hfull⟩
    · obtain rfl := Host.Outcome.next.inj ((exec_call_of_room nnn hfull).symm.trans h)
      exact .inl rfl
  | ret =>
    by_cases hempty : s.sp = 0
    · exact .inr ⟨_, .underflow rfl hempty⟩
    · obtain rfl := Host.Outcome.next.inj ((exec_ret_of_held hempty).symm.trans h)
      exact .inl rfl
  | drw x y n => exact fault_kept_or_failedCheck_of_access (.inl ⟨x, y, n, rfl, rfl⟩) h
  | ldB x => exact fault_kept_or_failedCheck_of_access (.inr (.inl ⟨x, rfl, rfl⟩)) h
  | dumpRegs x => exact fault_kept_or_failedCheck_of_access (.inr (.inr (.inl ⟨x, rfl, rfl⟩))) h
  | loadRegs x => exact fault_kept_or_failedCheck_of_access (.inr (.inr (.inr ⟨x, rfl, rfl⟩))) h
  | ldVxK x =>
    obtain hhold | ⟨v, hgo⟩ := exec_ldVxK_cases x s
    · obtain rfl := Host.Outcome.next.inj (hhold.symm.trans h)
      exact .inl rfl
    · obtain rfl := Host.Outcome.next.inj (hgo.symm.trans h)
      exact .inl rfl
  | _ =>
    obtain rfl := Host.Outcome.next.inj h
    exact .inl rfl

/-- Settles O12: a latch that differs comes from a failed check, and that takes the fatal entry. -/
theorem fatalEntryWritesOnlyTheLatch : Obligations.FatalEntryWritesOnlyTheLatch := by
  intro i s t h hne
  obtain hkeep | ⟨cause, hfailed⟩ := fault_kept_or_failedCheck h
  · exact absurd hkeep hne
  · obtain rfl := Host.Outcome.next.inj ((exec_of_failedCheck hfailed).symm.trans h)
    exact ⟨rfl, rfl, rfl, rfl, hfailed.code_bounds⟩

/-- Settles O13: with a clear latch before, a set one comes from a failed check, and a failed check sets it. -/
theorem eachInstructionHasAtMostOneCheck : Obligations.EachInstructionHasAtMostOneCheck := by
  intro i s t hrun h
  have hset {cause : FatalCause} (hfailed : FailedCheck i s cause) : t.fault.valid = true := by
    obtain rfl := Host.Outcome.next.inj ((exec_of_failedCheck hfailed).symm.trans h)
    rfl
  constructor
  · intro hv
    obtain hkeep | ⟨cause, hfailed⟩ := fault_kept_or_failedCheck h
    · rw [hkeep, hrun] at hv
      cases hv
    · obtain rfl := Host.Outcome.next.inj ((exec_of_failedCheck hfailed).symm.trans h)
      cases hfailed with
      | overflow nnn hi hfull => exact .inl ⟨nnn, hi, hfull, rfl⟩
      | underflow hi hempty => exact .inr (.inl ⟨hi, hempty, rfl⟩)
      | data len hpos hout hacc => exact .inr (.inr ⟨⟨len, hpos, hout, hacc⟩, rfl⟩)
  · rintro (⟨nnn, hi, hfull, -⟩ | ⟨hi, hempty, -⟩ | ⟨⟨len, hpos, hout, hacc⟩, -⟩)
    · exact hset (.overflow nnn hi hfull)
    · exact hset (.underflow hi hempty)
    · exact hset (.data len hpos hout hacc)

/-- Settles O23: both stack checks fail there. -/
theorem stackLimitsAreFatal : Obligations.StackLimitsAreFatal :=
  ⟨fun nnn _ hfull => exec_of_failedCheck (.overflow nnn rfl hfull),
    fun _ hempty => exec_of_failedCheck (.underflow rfl hempty)⟩

/-- Settles O38: the data check of each of the four fails there. -/
theorem dataOutsideMemoryIsFatal : Obligations.DataOutsideMemoryIsFatal := fun x y n _ =>
  ⟨fun hout => exec_of_failedCheck (.data 3 (by decide) hout (.inr (.inl ⟨x, rfl, rfl⟩))),
    fun hout => exec_of_failedCheck (.data _ x.val.succ_pos hout (.inr (.inr (.inl ⟨x, rfl, rfl⟩)))),
    fun hout => exec_of_failedCheck (.data _ x.val.succ_pos hout (.inr (.inr (.inr ⟨x, rfl, rfl⟩)))),
    fun hpos hout => exec_of_failedCheck (.data _ hpos hout (.inl ⟨x, y, n, rfl, rfl⟩))⟩

/-! ### Ticks (R148, R180) -/

/-- Settles O7: such events are one burst of as many ticks. -/
theorem eventsBeforeAStepAreTicks : Obligations.EventsBeforeAStepAreTicks := by
  intro s hno
  rw [State.beginStep_of_noReset hno]
  exact ⟨rfl, countDown_toNat _ s.DT, countDown_toNat _ s.ST⟩

/-- One tick takes one from a timer that is above 0 (R180). -/
theorem tickTimer_toNat_of_ne {v : Byte} (h : v ≠ 0) : (tickTimer v).toNat + 1 = v.toNat := by
  have hpos : v.toNat ≠ 0 := fun h0 => h (BitVec.eq_of_toNat_eq h0)
  rw [tickTimer_eq_countDown, countDown_toNat, Nat.sub_add_cancel (Nat.pos_of_ne_zero hpos)]

/-- A timer at 0 stays there (R180). -/
theorem tickTimer_of_eq_zero {v : Byte} (h : v = 0) : tickTimer v = 0 := if_pos h

/-- A burst of `n` ticks is `n` ticks one after the other (R148). -/
theorem State.ticks_eq_iterate (n : Nat) (s : State) : s.ticks n = State.tick^[n] s := by
  induction n generalizing s with
  | zero => simp [State.ticks, State.setDT, State.setST]
  | succ n ih => rw [State.ticks_succ, ih, Function.iterate_succ_apply]

/-- Settles O50: one tick is the clamped decrement of both timers, and a burst subtracts its length. -/
theorem ticksCountDownToZero : Obligations.TicksCountDownToZero :=
  ⟨fun _ => ⟨rfl, tickTimer_toNat_of_ne, tickTimer_of_eq_zero, tickTimer_toNat_of_ne, tickTimer_of_eq_zero⟩,
    fun s n => ⟨s.ticks_eq_iterate n, countDown_toNat n s.DT, countDown_toNat n s.ST⟩⟩

/-! ### The engine without an instruction (R162, R167) -/

theorem engineStep_of_fault {s : State} (h : s.fault.valid = true) : engineStep s = .next s := if_pos h

/-- Settles O10: there the fetch fails. -/
theorem fetchOutsideMemoryIsFatal : Obligations.FetchOutsideMemoryIsFatal := by
  intro s hrun hpc
  rw [engineStep, hrun, s.fetch_eq_none_iff.mpr hpc]
  rfl

/-- A request on a faulted engine does nothing, held in reset or not (R142, R167). -/
theorem requestedStep_of_fault {s : State} (h : s.fault.valid = true) : requestedStep s = .next s := by
  obtain ⟨-, he⟩ | ⟨-, he⟩ := requestedStep_cases s
  · exact he
  · exact he.trans (engineStep_of_fault h)

/-- Settles O11: the ticks before the step leave the latch set, so only they (O7) and the arrival of the inputs
change the state. -/
theorem faultedEngineTakesNoStep : Obligations.FaultedEngineTakesNoStep := by
  intro s hv hno
  obtain ⟨hbegin, hDT, hST⟩ := eventsBeforeAStepAreTicks s hno
  have hfault : s.beginStep.fault.valid = true := by rw [hbegin]; exact hv
  obtain ⟨n, l, q, hnext⟩ := s.beginStep.nextInput_eq
  have hstep : step s = .next s.beginStep.nextInput := by
    rw [step, stepRequest, requestedStep_of_fault hfault]
    rfl
  refine ⟨_, hstep, ?_, ?_, ?_⟩ <;> rw [hnext]
  · rw [hbegin]
  · exact hDT
  · exact hST

/-! ### The arrival of the given inputs (R182) -/

/-- What the engine does on a request takes no input of a later step. -/
theorem requestedStep_keeps_schedule {s t : State} (h : requestedStep s = .next t) :
    t.later = s.later ∧ t.seq = s.seq := by
  obtain ⟨-, he⟩ | ⟨-, he⟩ := requestedStep_cases s
  · obtain rfl := Host.Outcome.next.inj (he.symm.trans h)
    exact ⟨rfl, rfl⟩
  · rw [he] at h
    obtain ⟨-, he⟩ | ⟨-, -, he⟩ | ⟨op, -, -, he⟩ := engineStep_cases s
    · obtain rfl := Host.Outcome.next.inj (he.symm.trans h)
      exact ⟨rfl, rfl⟩
    · obtain rfl := Host.Outcome.next.inj (he.symm.trans h)
      exact ⟨rfl, rfl⟩
    · obtain ⟨-, -, -, -, -, -, -, -, -, hlater, hseq⟩ := eachStateHasItsOwnWriters _ s t (he.symm.trans h)
      exact ⟨hlater, hseq⟩

theorem State.nextInput_of_given {s : State} {i : StepInput} {rest : List StepInput} (h : s.later = i :: rest) :
    s.nextInput = { s with now := i, later := rest } := by
  rw [State.nextInput, h]

theorem State.nextInput_of_none_given {s : State} (h : s.later = []) :
    s.nextInput = { s with now := freeInput s.seq, seq := s.seq + 1 } := by
  rw [State.nextInput, h]

/-- Settles O54: ticks and the engine leave the later inputs alone, so the first of them arrives. -/
theorem inputsArriveInOrder : Obligations.InputsArriveInOrder := by
  intro s t hno h
  obtain ⟨u, hu, rfl⟩ := stepRequest_next h
  obtain ⟨hlater, hseq⟩ := requestedStep_keeps_schedule hu
  rw [State.beginStep_of_noReset hno] at hlater hseq
  refine ⟨fun i rest hgiven => ?_, fun hnone => ?_⟩
  · rw [State.nextInput_of_given (hlater.trans hgiven)]
    exact ⟨rfl, rfl, hseq⟩
  · rw [State.nextInput_of_none_given (hlater.trans hnone), hseq]
    exact ⟨rfl, hlater.trans hnone, rfl⟩

/-! ### The memory that reset leaves outside the program area (R12, R169, R190) -/

theorem resetByte_font (c : Config) (k : Fin 80) : resetByte c (0x050 + k.val) = c.fontRom[k] := by
  have hin : fontBase ≤ 0x050 + k.val ∧ 0x050 + k.val - fontBase < 80 := by
    rw [fontBase]; omega
  rw [resetByte, dif_pos hin]
  simp [fontBase]

theorem resetByte_outside_font (c : Config) {a : Nat} (h : a < 0x050 ∨ 0x0A0 ≤ a) : resetByte c a = c.memFill :=
  dif_neg (by rw [fontBase]; omega)

/-- Below the program area a reset leaves the reset contents, whether the load failed or not. -/
theorem State.resetWith_readByte_below (s : State) (rom : List Byte) {a : Nat} (h : a < 0x200) :
    (s.resetWith rom).readByte a = resetByte s.cfg a :=
  (Memory.read_image a (loadedImage_fits rom s.seq)).trans (dif_neg fun hin => by
    obtain ⟨hle, -⟩ := hin
    exact Nat.not_le_of_lt h hle)

/-- Settles O56: the latch that such a reset leaves stops the engine (R167). -/
theorem tooLargeRomIsFatal : Obligations.TooLargeRomIsFatal := by
  intro s rom hlarge t
  have hfault : t.fault = { valid := true, cause := 5, addr := 0, opcode := 0 } :=
    if_neg (Nat.not_le_of_lt hlarge)
  refine ⟨hfault, engineStep_of_fault (by rw [hfault]), s.resetWith_reg rom, rfl, rfl, rfl, s.resetWith_stackAt rom,
    rfl, rfl, fun r c _ _ => Frame.get_blank _ _ r c, fun k => ?_, fun a ha hout => ?_⟩
  · rw [s.resetWith_readByte_below rom (by omega), resetByte_font]
  · rw [s.resetWith_readByte_below rom ha, resetByte_outside_font s.cfg hout]

end Sys2Proof.Machine

/-! PROOFS. Reset and hazards (70_reset_and_hazards.md): the jump to its own address (O15), the state that a reset
leaves (O55), the invariant there (O57, O58), and a reset before a step (O60). -/

namespace Sys2Proof.Machine

/-! ### The end of a run (R198) -/

/-- A `pc` below 0x1000 is not changed by the way through the 12 bits of a jump (R75). -/
theorem zext12_setWidth {pc : Word} (h : pc.toNat ≤ 0xFFE) : zext12 (pc.setWidth 12) = pc := by
  apply BitVec.eq_of_toNat_eq
  rw [zext12_toNat, BitVec.toNat_setWidth, Nat.mod_eq_of_lt (by omega)]

/-- Settles O15: the word fetched is the jump to `pc`, and JP writes `pc` only. -/
theorem spinChangesNothing : Obligations.SpinChangesNothing := by
  rintro s ⟨hrun, hpc, hfetch⟩
  have hdec : decodeWord (formatA 0x1 (s.pc.setWidth 12)) = .jp (s.pc.setWidth 12) :=
    decodeOfEncodeIsTheInstruction (.jp _) rfl
  have hjump : exec (.jp (s.pc.setWidth 12)) s = .next (s.setPc (zext12 (s.pc.setWidth 12))) := rfl
  rw [engineStep_of_fetch hrun hfetch, hdec, hjump, zext12_setWidth hpc]
  rfl

/-! ### What a reset with a ROM that fits leaves in memory (R12, R150, R190) -/

theorem loadedImage_of_fits {rom : List Byte} (hfit : rom.length ≤ 0xE00) (n : Nat) : loadedImage rom n = rom :=
  if_pos hfit

/-- Memory after such a reset is the image of the ROM, from 0x200 on, over the reset contents. -/
theorem State.resetWith_mem_of_fits (s : State) {rom : List Byte} (hfit : rom.length ≤ 0xE00) :
    (s.resetWith rom).mem = Memory.image s.cfg loadAddress rom :=
  congrArg (Memory.image s.cfg loadAddress) (loadedImage_of_fits hfit s.seq)

theorem loadAddress_add_length_le {rom : List Byte} (hfit : rom.length ≤ 0xE00) :
    loadAddress + rom.length ≤ memSize := Nat.add_le_add_left hfit loadAddress

theorem State.resetWith_readByte_rom (s : State) {rom : List Byte} (hfit : rom.length ≤ 0xE00) {k : Nat}
    (hk : k < rom.length) : (s.resetWith rom).readByte (0x200 + k) = rom[k] := by
  have hin : loadAddress ≤ 0x200 + k ∧ 0x200 + k - loadAddress < rom.length := by
    rw [loadAddress]; omega
  rw [State.readByte, s.resetWith_mem_of_fits hfit]
  refine (Memory.read_image _ (loadAddress_add_length_le hfit)).trans ((dif_pos hin).trans ?_)
  simp only [loadAddress, Nat.add_sub_cancel_left]

theorem State.resetWith_readByte_outside_rom (s : State) {rom : List Byte} (hfit : rom.length ≤ 0xE00) {a : Nat}
    (hout : a < 0x200 ∨ 0x200 + rom.length ≤ a) : (s.resetWith rom).readByte a = resetByte s.cfg a := by
  rw [State.readByte, s.resetWith_mem_of_fits hfit]
  exact (Memory.read_image a (loadAddress_add_length_le hfit)).trans (dif_neg (by rw [loadAddress]; omega))

/-- Settles O55: memory is the ROM over the reset contents, everything else a fixed value. -/
theorem resetBuildsTheState : Obligations.ResetBuildsTheState := by
  intro s rom hfit t
  have hlatch : t.fault = FaultLatch.none := if_pos hfit
  refine ⟨s.resetWith_reg rom, rfl, rfl, rfl, s.resetWith_stackAt rom, rfl, rfl, hlatch, rfl, Frame.wf_blank _ _,
    fun r c _ _ => Frame.get_blank _ _ r c, fun k => ?_, fun k hk => s.resetWith_readByte_rom hfit hk,
    fun a _ hfont hrom => ?_⟩
  · rw [s.resetWith_readByte_below rom (by omega), resetByte_font]
  · rw [s.resetWith_readByte_outside_rom hfit hrom, resetByte_outside_font s.cfg hfont]

/-! ### The invariant (R23, R190) -/

/-- Settles O58: the assertion of `rst` builds a state that meets the invariant, and its release keeps it. -/
theorem invariantHoldsAfterEveryReset : Obligations.InvariantHoldsAfterEveryReset := fun s rom =>
  ⟨(s.assertReset_inv rom).releaseReset, s.assertReset_inv rom⟩

/-- Settles O57: `State.reset` is a reset with the empty ROM (O58). -/
theorem invariantHoldsAtReset : Obligations.InvariantHoldsAtReset := by
  obtain ⟨hinv, -⟩ := invariantHoldsAfterEveryReset State.reset []
  rwa [State.resetWith_nil] at hinv

/-! ### A reset before a step (R192, R142) -/

/-- What came before `rst` went up is forgotten, but for the free values it took: the reset state depends on the
parameters and the inputs, which no event writes. -/
theorem State.beginStep_of_assertReset {s : State} {es rest : List HostEvent} {rom : List Byte}
    (h : s.now.before = es ++ .assertReset rom :: rest) :
    ∃ q, s.beginStep = ((({ s with seq := q } : State).assertReset rom).hostEvents rest).clearEvents := by
  obtain ⟨hnow, hlater, hcfg⟩ := (s.setFbPush false).hostEvents_inputs es
  have hreset : ((s.setFbPush false).hostEvents es).assertReset rom =
      ({ s with seq := ((s.setFbPush false).hostEvents es).seq } : State).assertReset rom :=
    State.assertReset_congr rom hcfg hnow hlater rfl
  refine ⟨((s.setFbPush false).hostEvents es).seq, ?_⟩
  rw [State.beginStep, h, State.hostEvents_append, State.hostEvents_cons, State.hostEvent, hreset]

/-- With `rst` down again the step begins in the reset state of that ROM (R190). -/
theorem State.beginStep_of_reset {s : State} {es : List HostEvent} {rom : List Byte}
    (h : s.now.before = es ++ [.assertReset rom, .releaseReset]) :
    ∃ q, s.beginStep = (({ s with seq := q } : State).resetWith rom).clearEvents := by
  obtain ⟨q, hbegin⟩ := State.beginStep_of_assertReset h
  refine ⟨q, ?_⟩
  rw [hbegin, State.hostEvents_cons, State.hostEvents_nil, State.hostEvent, State.assertReset_setRst]

/-- After a reset with a ROM of two bytes or more that fits, its first two bytes are the word at `pc` (R191). -/
theorem State.resetWith_fetch (s : State) {a b : Byte} {rom : List Byte} (hfit : (a :: b :: rom).length ≤ 0xE00) :
    (s.resetWith (a :: b :: rom)).fetch = some (opcodeOf a b) := by
  have hpc : (s.resetWith (a :: b :: rom)).pc.toNat = 0x200 := by
    rw [State.resetWith_pc, BitVec.toNat_ofNat]
  have hhi : (s.resetWith (a :: b :: rom)).readByte 0x200 = a :=
    s.resetWith_readByte_rom hfit (k := 0) (Nat.succ_pos _)
  have hlo : (s.resetWith (a :: b :: rom)).readByte (0x200 + 1) = b :=
    s.resetWith_readByte_rom hfit (k := 1) (Nat.succ_lt_succ (Nat.succ_pos _))
  rw [State.fetch_eq_some (by rw [hpc]; decide), hpc, hhi, hlo]

/-- The events of the coming step are nothing that a fetch looks at (R71). -/
theorem State.clearEvents_fetch (s : State) : s.clearEvents.fetch = s.fetch := rfl

/-- The engine's step in the reset state of such a ROM runs its first instruction (R190, R191). -/
theorem step_of_reset {s : State} {es : List HostEvent} {a b : Byte} {rom : List Byte}
    (h : s.now.before = es ++ [.assertReset (a :: b :: rom), .releaseReset])
    (hfit : (a :: b :: rom).length ≤ 0xE00) :
    step s = Result.map State.nextInput (exec (decodeWord (opcodeOf a b)) s.beginStep) := by
  obtain ⟨q, hbegin⟩ := State.beginStep_of_reset h
  have hlatch : resetLatch (a :: b :: rom) = FaultLatch.none := if_pos hfit
  have hrun : s.beginStep.running := by
    rw [State.running, hbegin, State.clearEvents_fault, State.resetWith_fault, hlatch]
    rfl
  have hfetch : s.beginStep.fetch = some (opcodeOf a b) := by
    rw [hbegin, State.clearEvents_fetch, State.resetWith_fetch _ hfit]
  have hrst : s.beginStep.rst = false := by rw [hbegin, State.clearEvents_rst, State.resetWith_rst]
  exact step_of_engine hrst (engineStep_of_fetch hrun hfetch)

/-- A request while `rst` is asserted does nothing (R142). -/
theorem step_of_rst {s : State} (h : s.beginStep.rst = true) : step s = .next s.beginStep.nextInput := by
  rw [step, stepRequest, requestedStep, if_pos h]
  rfl

/-- Settles O60: `rst` going up builds the reset state from the parameters and the inputs alone. -/
theorem resetBeforeAStepRebuildsTheState : Obligations.ResetBeforeAStepRebuildsTheState :=
  ⟨fun _ _ _ _ h => State.beginStep_of_assertReset h, fun _ _ _ h => State.beginStep_of_reset h,
    fun _ _ _ _ _ h hfit => step_of_reset h hfit, fun _ h => step_of_rst h⟩

end Sys2Proof.Machine
